-- ==== Sys2Proof/Word.lean ====
section
/-! DEFINITION. The widths the spec fixes (00_scope.md R9, 30_encoding.md R90) and the PulseSegment (R101). -/

namespace Sys2Proof

/-- A command word (30_encoding.md R90). -/
abbrev CmdWord := BitVec 64

/-- What one register read returns (10_state.md R45). -/
abbrev RegWord := BitVec 32

/-- The 40-bit frame: value8 in bits 39..32, value32 in bits 31..0 (10_state.md R23). The source fixes this width (00_scope.md
R9); `Config.frameBits` counts its timeslots, and a legal configuration has them agree. -/
abbrev Frame := BitVec 40

/-- A duration in unsigned microseconds. Its width DUR_W is a parameter (00_scope.md R8), so it is a number here: what brings
a duration into the machine keeps it below 2^DUR_W (log 9), and `packSegment` gives its DUR_W bits. -/
abbrev Dur := Nat

/-- A pulse level: `on` is a mark (1), `off` a space (0) (00_scope.md R12). -/
inductive Level where
  | off
  | on
deriving DecidableEq, Repr

/-- One timed interval, an emitted token or a capture entry (30_encoding.md R101). -/
structure PulseSegment where
  level : Level
  dur : Dur
deriving DecidableEq, Repr

end Sys2Proof
end

