-- ==== Sys2Proof/Config.lean ====
section
/-! DEFINITION. The protocol constants and implementation parameters in one record (00_scope.md R7, R8), and the
values the spec leaves open. -/

namespace Sys2Proof

/-- The constants of R7 and the parameters of R8, all durations in microseconds. The defaults are the spec's values;
the band bounds default to the floors R8 derives from TOL_PCT. UNVERIFIED (log 10): the spec says the protocol literals
were not audited against the repository. -/
structure Config where
  /-- PROTO_ID: OPEN, so it has no default (R8, 92_eei_decisions.md D18). -/
  protoId : BitVec 8
  zeroDuration : Nat := 400
  oneDuration : Nat := 800
  headerDuration : Nat := 1600
  trailerGuard : Nat := 1000
  /-- CARRIER_FREQ in hertz: informational, read by no rule (R7). -/
  carrierFreq : Nat := 38000
  /-- FRAME_BITS: how many timeslots a frame has (R7). -/
  frameBits : Nat := 40
  seedDefault : BitVec 8 := 0xAE
  fixedMarker : BitVec 8 := 0xAA
  ckOffset : Nat := 0x0D
  /-- DUR_W: the width in bits of every duration field (R8, 93_implementation_defined.md I13). -/
  durW : Nat := 16
  capDepth : Nat := 64
  tolPct : Nat := 25
  zeroMin : Nat := zeroDuration * (100 - tolPct) / 100
  zeroMax : Nat := zeroDuration * (100 + tolPct) / 100
  oneMin : Nat := oneDuration * (100 - tolPct) / 100
  oneMax : Nat := oneDuration * (100 + tolPct) / 100
  hdrMin : Nat := headerDuration * (100 - tolPct) / 100
  hdrMax : Nat := headerDuration * (100 + tolPct) / 100
deriving DecidableEq, Repr

/-- FREE VALUE (log 8): the protocol identifier this hardware records; the spec leaves it OPEN (R8, R34). -/
opaque Config.openProtoId : BitVec 8

/-- FREE VALUE (log 6): which of the values R80 admits the n-th race read returns. -/
opaque Config.raceChoice : Nat → Nat

/-- FREE VALUE (log 7): the 1 + DUR_W bits a capture entry held before it was ever written (20_memory.md R65), where R80
admits that old value. -/
opaque Config.unwrittenSegment (durW : Nat) : Nat → BitVec (1 + durW)

/-- The configuration of this hardware: every value of R7 and R8, PROTO_ID left open. -/
def Config.hw : Config := { protoId := Config.openProtoId }

/-- A duration as this hardware's capture write port carries it: DUR_W bits (40_port.md R131). -/
abbrev PortDur := BitVec Config.hw.durW

end Sys2Proof
end

