-- ==== Sys2Proof/Syntax.lean ====
section
/-! DEFINITION. The command set: one constructor per row of spec/opcode_table.json (30_encoding.md R97). -/

namespace Sys2Proof

/-- A command. Every operand has exactly its field's width (30_encoding.md R93 to R96). -/
inductive Instr where
  /-- NOP: the all-zero word (40_port.md R123). -/
  | nop
  /-- ENC.TW team, weapon (42_encoder.md R161). -/
  | encTw (team weapon : BitVec 8)
  /-- ENC.RAW value8, value32 (42_encoder.md R162). -/
  | encRaw (value8 : BitVec 8) (value32 : BitVec 32)
  /-- DEC n (43_decoder.md R200). -/
  | dec (n : BitVec 16)
  /-- CKSUM team, weapon (41_checksum.md R142). -/
  | cksum (team weapon : BitVec 8)
deriving DecidableEq, Repr

end Sys2Proof
end

