-- ==== Sys2Proof/WellFormed.lean ====
section
/-! DEFINITION. Well-formedness: of a command (nothing left to check, the types carry R96) and of a configuration
(00_scope.md R8, 93_implementation_defined.md I1, I13). The legality of a command WORD (30_encoding.md R98) stands in
Decode.lean beside the opcode map. -/

namespace Sys2Proof

/-- The bands are ordered and disjoint (00_scope.md R8). -/
def Config.bandsOrdered (c : Config) : Bool :=
  c.zeroMin ≤ c.zeroMax && c.zeroMax < c.oneMin && c.oneMin ≤ c.oneMax && c.hdrMin ≤ c.hdrMax

/-- All six bounds lie in 0..2^DUR_W-1 (00_scope.md R8). -/
def Config.bandsFit (c : Config) : Bool :=
  c.zeroMin < 2 ^ c.durW && c.zeroMax < 2 ^ c.durW && c.oneMin < 2 ^ c.durW && c.oneMax < 2 ^ c.durW &&
  c.hdrMin < 2 ^ c.durW && c.hdrMax < 2 ^ c.durW

/-- DUR_W is at least 11 (93_implementation_defined.md I13). -/
def Config.durWOk (c : Config) : Bool :=
  11 ≤ c.durW

/-- CAP_DEPTH is at least 41 (00_scope.md R8). -/
def Config.depthOk (c : Config) : Bool :=
  41 ≤ c.capDepth

/-- TOL_PCT lies in 0..33 (00_scope.md R8). -/
def Config.tolOk (c : Config) : Bool :=
  c.tolPct ≤ 33

/-- FRAME_BITS is the width of the frame {value8, value32} (00_scope.md R7, R9). -/
def Config.frameBitsOk (c : Config) : Bool :=
  c.frameBits == 8 + 32

/-- A legal configuration (00_scope.md R8, R9, 93_implementation_defined.md I1, I13). -/
def Config.legal (c : Config) : Bool :=
  c.bandsOrdered && c.bandsFit && c.durWOk && c.depthOk && c.tolOk && c.frameBitsOk

/-- Each band contains its nominal duration, the premise of the round trip (43_decoder.md R212). -/
def Config.bandsHoldNominal (c : Config) : Bool :=
  c.zeroMin ≤ c.zeroDuration && c.zeroDuration ≤ c.zeroMax &&
  c.oneMin ≤ c.oneDuration && c.oneDuration ≤ c.oneMax &&
  c.hdrMin ≤ c.headerDuration && c.headerDuration ≤ c.hdrMax

/-- The protocol constants have the values of 00_scope.md R7 (the parameters of R8 may differ). -/
def Config.hasProtocolConstants (c : Config) : Bool :=
  c.zeroDuration == 400 && c.oneDuration == 800 && c.headerDuration == 1600 && c.trailerGuard == 1000 &&
  c.frameBits == 40 && c.seedDefault == 0xAE && c.fixedMarker == 0xAA && c.ckOffset == 0x0D

/-- Every value of every operand field is admitted ("used as-is (no range validation)", 42_encoder.md R161;
30_encoding.md R96), and the field types hold nothing else. -/
def Instr.wf : Instr → Bool
  | .nop => true
  | .encTw _ _ => true
  | .encRaw _ _ => true
  | .dec _ => true
  | .cksum _ _ => true

end Sys2Proof
end

