-- ==== Sys2Proof/Decode.lean ====
section
/-! DEFINITION. Decoding a command word, total on all 64-bit words (30_encoding.md R90 to R100), the opcode map,
the encoder, and the assembler's operand reduction (R104, R105). Words are presented whole, so no byte order exists
(20_memory.md R67). -/

namespace Sys2Proof

/-- Why a word is no command (30_encoding.md R99). -/
inductive IllegalWord where
  /-- OP is 0x5..0xF. -/
  | unassignedOpcode
  /-- OP is assigned and a reserved bit of its format is 1. -/
  | reservedBitsSet
deriving DecidableEq, Repr

/-- What the port's decoder answers. -/
inductive DecodeResult where
  | instr (i : Instr)
  | illegal (why : IllegalWord)
deriving DecidableEq, Repr

/-- Field OP (30_encoding.md R91). -/
def opField (w : CmdWord) : BitVec 4 := w.extractLsb' 60 4

/-- Reserved bits 59..0 of format Z (30_encoding.md R92). -/
def reservedZ (w : CmdWord) : BitVec 60 := w.extractLsb' 0 60

/-- Reserved bits 59..16 of formats TW and N (30_encoding.md R93, R95). -/
def reservedTW (w : CmdWord) : BitVec 44 := w.extractLsb' 16 44

/-- Reserved bits 59..40 of format RAW (30_encoding.md R94). -/
def reservedRAW (w : CmdWord) : BitVec 20 := w.extractLsb' 40 20

/-- T of format TW (30_encoding.md R93). -/
def fieldT (w : CmdWord) : BitVec 8 := w.extractLsb' 8 8

/-- W of format TW (30_encoding.md R93). -/
def fieldW (w : CmdWord) : BitVec 8 := w.extractLsb' 0 8

/-- A of format RAW (30_encoding.md R94). -/
def fieldA (w : CmdWord) : BitVec 8 := w.extractLsb' 32 8

/-- V of format RAW (30_encoding.md R94). -/
def fieldV (w : CmdWord) : BitVec 32 := w.extractLsb' 0 32

/-- N of format N (30_encoding.md R95). -/
def fieldN (w : CmdWord) : BitVec 16 := w.extractLsb' 0 16

/-- The instruction if the reserved bits are all 0, else the word is illegal (30_encoding.md R90, R99). -/
def ifReservedZero (reservedZero : Bool) (i : Instr) : DecodeResult :=
  if reservedZero then .instr i else .illegal .reservedBitsSet

/-- The port's decoder (30_encoding.md R90, R97). -/
def decode (w : CmdWord) : DecodeResult :=
  match (opField w).toNat with
  | 0 => ifReservedZero (reservedZ w == 0) .nop
  | 1 => ifReservedZero (reservedTW w == 0) (.encTw (fieldT w) (fieldW w))
  | 2 => ifReservedZero (reservedRAW w == 0) (.encRaw (fieldA w) (fieldV w))
  | 3 => ifReservedZero (reservedTW w == 0) (.dec (fieldN w))
  | 4 => ifReservedZero (reservedTW w == 0) (.cksum (fieldT w) (fieldW w))
  | _ => .illegal .unassignedOpcode

/-- One row of the opcode map (30_encoding.md R97). -/
structure OpcodeRow where
  mnemonic : String
  pattern : CmdWord
  mask : CmdWord
deriving DecidableEq, Repr

/-- The opcode map (30_encoding.md R97, spec/opcode_table.json). -/
def opcodeMap : List OpcodeRow :=
  [ ⟨"NOP",     0x0000000000000000, 0xFFFFFFFFFFFFFFFF⟩,
    ⟨"ENC.TW",  0x1000000000000000, 0xFFFFFFFFFFFF0000⟩,
    ⟨"ENC.RAW", 0x2000000000000000, 0xFFFFFF0000000000⟩,
    ⟨"DEC",     0x3000000000000000, 0xFFFFFFFFFFFF0000⟩,
    ⟨"CKSUM",   0x4000000000000000, 0xFFFFFFFFFFFF0000⟩ ]

/-- A row matches a word (30_encoding.md R97, R98). -/
def OpcodeRow.selects (r : OpcodeRow) (w : CmdWord) : Bool :=
  r.mask != 0 && (w &&& r.mask) == r.pattern

/-- legal(word) of 30_encoding.md R98. -/
def legalWord (w : CmdWord) : Bool :=
  opcodeMap.any (·.selects w)

/-- The word of a command, its fields shifted into place and added as the assembler's table writes it; they do not overlap
(30_encoding.md R92 to R97, R104). -/
def encode : Instr → CmdWord
  | .nop => 0#64
  | .encTw t w => (1#64 <<< 60) + (t.setWidth 64 <<< 8) + w.setWidth 64
  | .encRaw a v => (2#64 <<< 60) + (a.setWidth 64 <<< 32) + v.setWidth 64
  | .dec n => (3#64 <<< 60) + n.setWidth 64
  | .cksum t w => (4#64 <<< 60) + (t.setWidth 64 <<< 8) + w.setWidth 64

/-- The row of the opcode map a command belongs to (30_encoding.md R97). -/
def opcodeRowOf : Instr → OpcodeRow
  | .nop => ⟨"NOP", 0x0000000000000000, 0xFFFFFFFFFFFFFFFF⟩
  | .encTw _ _ => ⟨"ENC.TW", 0x1000000000000000, 0xFFFFFFFFFFFF0000⟩
  | .encRaw _ _ => ⟨"ENC.RAW", 0x2000000000000000, 0xFFFFFF0000000000⟩
  | .dec _ => ⟨"DEC", 0x3000000000000000, 0xFFFFFFFFFFFF0000⟩
  | .cksum _ _ => ⟨"CKSUM", 0x4000000000000000, 0xFFFFFFFFFFFF0000⟩

/-- `NOP` (30_encoding.md R104). -/
def assembleNop : CmdWord := encode .nop

/-- `ENC.TW team, weapon` with each operand reduced to its field (30_encoding.md R104, R105). -/
def assembleEncTw (team weapon : Nat) : CmdWord :=
  encode (.encTw (BitVec.ofNat 8 team) (BitVec.ofNat 8 weapon))

/-- `ENC.RAW value8, value32` (30_encoding.md R104, R105). -/
def assembleEncRaw (value8 value32 : Nat) : CmdWord :=
  encode (.encRaw (BitVec.ofNat 8 value8) (BitVec.ofNat 32 value32))

/-- `DEC n` (30_encoding.md R104, R105). -/
def assembleDec (n : Nat) : CmdWord :=
  encode (.dec (BitVec.ofNat 16 n))

/-- `CKSUM team, weapon` (30_encoding.md R104, R105). -/
def assembleCksum (team weapon : Nat) : CmdWord :=
  encode (.cksum (BitVec.ofNat 8 team) (BitVec.ofNat 8 weapon))

/-- The word whose bits the opcode table numbers: its low `nbits` bits of `w`, the rest 0. A command is one word
(30_encoding.md R103), and the port takes it whole. -/
def tableWord (nbits w : Nat) : CmdWord :=
  BitVec.ofNat 64 (w % 2 ^ nbits)

/-- The instruction this decoder reads from a table word. -/
def decodeTableWord (nbits w : Nat) : Option Instr :=
  match decode (tableWord nbits w) with
  | .instr i => some i
  | .illegal _ => none

end Sys2Proof
end

