-- ==== Sys2Proof/Machine/State.lean ====
section
/-! DEFINITION. The state of the core (10_state.md), of the HOST's side of its ports, and the schedule. -/

namespace Sys2Proof.Machine

/-- ENC_ST (10_state.md R22). -/
inductive EncState where
  | idle
  | hdr
  | slot
  | trl
deriving DecidableEq, Repr

/-- DEC_ST (10_state.md R25). -/
inductive DecState where
  | idle
  | awaitHeader
  | readBits
  | done
deriving DecidableEq, Repr

/-- STATUS.DEC_ERR (10_state.md R42, 60_exceptions.md R260). -/
inductive DecErr where
  | none
  | malformedHeader
  | truncatedFrame
  | ambiguousTiming
deriving DecidableEq, Repr

/-- One turn of the schedule: which agent moves and, for the HOST, what it does (00_scope.md R13, 60_exceptions.md
R268). DESIGN CHOICE (log 1): the free order of the agents is a list of turns in State. -/
inductive Turn where
  /-- The HOST presents the word it has at hand (40_port.md R120). -/
  | present
  /-- The HOST reads a register (40_port.md R130). -/
  | read (addr : BitVec 4)
  /-- The HOST writes a capture entry (40_port.md R131). -/
  | capWrite (index : BitVec 16) (level : Level) (dur : PortDur)
  /-- The ENCODER moves (42_encoder.md R163, R164, R167). -/
  | encoder
  /-- The DECODER moves (43_decoder.md R204, R205, R208). -/
  | decoder
  /-- The reset input is asserted (70_reset_and_hazards.md R290). -/
  | reset
deriving DecidableEq, Repr

/-- The capture buffer: (index, entry) pairs, indices strictly rising; an index not listed has not been written since
power-on (10_state.md R47, 20_memory.md R63, R65). DESIGN CHOICE (log 5): the unit is the entry, since no space is
byte-addressed (R67). -/
abbrev Memory := List (Nat × PulseSegment)

/-- The canonical form of the capture buffer. -/
abbrev Memory.wf (m : Memory) : Prop := m.Pairwise (fun a b => a.1 < b.1)

/-- The machine. The first group is the core's own state, named as in 10_state.md; the second is the HOST's side of
the ports and the schedule. -/
structure State where
  /-- ENC_ST (R22). -/
  encSt : EncState
  /-- ENC_FRAME (R23). -/
  encFrame : Frame
  /-- ENC_IDX (R24). -/
  encIdx : BitVec 6
  /-- DEC_ST (R25). -/
  decSt : DecState
  /-- DEC_ACC (R26). -/
  decAcc : Frame
  /-- DEC_IDX (R27). -/
  decIdx : BitVec 6
  /-- DEC_LEN (R28). -/
  decLen : BitVec 16
  /-- DEC_VALUE (R31). -/
  decValue : BitVec 32
  /-- DEC_ADDR (R32). -/
  decAddr : BitVec 8
  /-- DEC_BITS (R33). -/
  decBits : BitVec 8
  /-- DEC_PROTO (R34). -/
  decProto : BitVec 8
  /-- DEC_SLOTS (R35). -/
  decSlots : BitVec 6
  /-- CK_RES (R36). -/
  ckRes : BitVec 4
  /-- STATUS.DEC_DONE (R40). -/
  decDone : Bool
  /-- STATUS.DEC_OK (R41). -/
  decOk : Bool
  /-- STATUS.DEC_ERR (R42). -/
  decErr : DecErr
  /-- STATUS.CKMM (R43). -/
  ckmm : Bool
  /-- STATUS.CMD_ERR (R44). -/
  cmdErr : Bool
  /-- CAP (R47). -/
  cap : Memory
  /-- EMITTED, oldest first (R48). -/
  emitted : List PulseSegment
  /-- MODEL (log 6): while a decode runs, each CapWrite's index and what that entry held before it, oldest first; what
  20_memory.md R80 needs. `none`: the entry had not been written. -/
  overwritten : List (Nat × Option PulseSegment)
  /-- MODEL (log 6): how many free values have been drawn. -/
  freeCount : Nat
  /-- MODEL (log 3): the command words the HOST has still to present; the head is the one at the port, kept there while
  it is held (R49, 40_port.md R121, R124). -/
  hostWords : List CmdWord
  /-- MODEL (log 13): what the register read port has returned to the HOST, oldest first (40_port.md R130). -/
  reads : List (BitVec 4 × RegWord)
  /-- MODEL (log 1): who moves in the coming steps. -/
  turns : List Turn
deriving DecidableEq, Repr

/-- Why the machine stops with a fault. -/
inductive Fault where
  /-- Raised by a decoder step that reads a capture entry never written since power-on. The spec asks for this fault
  (20_memory.md R65; 93_implementation_defined.md I8). SAFE: the hardware goes on with a value the spec does not fix. -/
  | unwrittenCapture (index : Nat)
deriving DecidableEq, Repr

/-- Why the model refuses. -/
inductive Refusal where
  /-- Raised by an arm of exec whose instruction has no meaning yet; no arm does. SAFE. -/
  | notModelled (mnemonic : String)
  /-- Raised by a decoder step under a configuration that is not legal (93_implementation_defined.md I1). SAFE. This
  hardware's configuration is legal, so `step` never raises it. -/
  | illegalConfiguration
deriving DecidableEq, Repr

/-- The machine right after power-on: the reset values of 10_state.md R51, EMITTED empty and CAP unwritten
(70_reset_and_hazards.md R290). DESIGN CHOICE (log 1, 3, 6, 13): the model's own fields start empty. -/
def State.reset : State where
  encSt := .idle
  encFrame := 0
  encIdx := 0
  decSt := .idle
  decAcc := 0
  decIdx := 0
  decLen := 0
  decValue := 0
  decAddr := 0
  decBits := 0
  decProto := 0
  decSlots := 0
  ckRes := 0
  decDone := false
  decOk := false
  decErr := .none
  ckmm := false
  cmdErr := false
  cap := []
  emitted := []
  overwritten := []
  freeCount := 0
  hostWords := []
  reads := []
  turns := []

end Sys2Proof.Machine
end

