-- ==== Sys2Proof/Machine/Operands.lean ====
section
/-! DEFINITION. The pure functions of the datapath: the checksum (41_checksum.md), frame packing, slot polarity, slot
bit and duration (42_encoder.md), the comparators (43_decoder.md), and the PulseSegment's bits (30_encoding.md R101). -/

namespace Sys2Proof.Machine

/-- Checksum(t, w): the exact sum reduced mod 16 (41_checksum.md R140). -/
def checksum (c : Config) (team weapon : BitVec 8) : BitVec 4 :=
  BitVec.ofNat 4 (c.ckOffset + team.toNat + weapon.toNat)

/-- pack(t, w) (42_encoder.md R160; the reserved nibble is above the checksum, 90_conflicts.md C1). -/
def packTW (c : Config) (team weapon : BitVec 8) : BitVec 32 :=
  c.fixedMarker ++ team ++ weapon ++ 0#4 ++ checksum c team weapon

/-- frameTW(t, w) (42_encoder.md R160; the seed is the fixed default, 90_conflicts.md C2). -/
def frameTW (c : Config) (team weapon : BitVec 8) : Frame :=
  c.seedDefault ++ packTW c team weapon

/-- The frame of ENC.RAW, value8 above value32 (42_encoder.md R162, 90_conflicts.md C8). -/
def frameRaw (value8 : BitVec 8) (value32 : BitVec 32) : Frame :=
  value8 ++ value32

/-- SlotLevel(i): even OFF, odd ON (42_encoder.md R165). -/
def slotLevel (i : Nat) : Level :=
  if i % 2 = 0 then .off else .on

/-- SlotBit(i): frame bit 39 - i, the most significant bit first (42_encoder.md R166). -/
def slotBit (c : Config) (f : Frame) (i : Nat) : Bool :=
  f.getLsbD (c.frameBits - 1 - i)

/-- A duration constant in a token's DUR_W bits, trunc_DUR_W of it (00_scope.md R8, R11; 30_encoding.md R101; log 18). -/
def tokenDur (c : Config) (d : Dur) : Dur :=
  d % 2 ^ c.durW

/-- BitDur(b) (42_encoder.md R166). -/
def bitDur (c : Config) (b : Bool) : Dur :=
  tokenDur c (if b then c.oneDuration else c.zeroDuration)

/-- The header token (42_encoder.md R163). -/
def headerToken (c : Config) : PulseSegment :=
  ⟨.on, tokenDur c c.headerDuration⟩

/-- The token of slot i (42_encoder.md R164). -/
def slotToken (c : Config) (f : Frame) (i : Nat) : PulseSegment :=
  ⟨slotLevel i, bitDur c (slotBit c f i)⟩

/-- The trailer token (42_encoder.md R167). -/
def trailerToken (c : Config) : PulseSegment :=
  ⟨.off, tokenDur c c.trailerGuard⟩

/-- The tokens of a frame in emission order: header, FRAME_BITS slots, trailer (42_encoder.md R169). -/
def frameTokens (c : Config) (f : Frame) : List PulseSegment :=
  headerToken c :: ((List.range c.frameBits).map (slotToken c f) ++ [trailerToken c])

/-- Classify(d): the tolerance window, `none` outside both bands (43_decoder.md R202, 90_conflicts.md C4). -/
def classify (c : Config) (d : Dur) : Option Bool :=
  if c.zeroMin ≤ d ∧ d ≤ c.zeroMax then some false
  else if c.oneMin ≤ d ∧ d ≤ c.oneMax then some true
  else none

/-- HdrOK(level, d) (43_decoder.md R203). -/
def hdrOk (c : Config) (p : PulseSegment) : Bool :=
  p.level = .on ∧ c.hdrMin ≤ p.dur ∧ p.dur ≤ c.hdrMax

/-- A classified bit enters the accumulator at bit 0 (43_decoder.md R205, R207). -/
def shiftIn (acc : Frame) (b : Bool) : Frame :=
  (acc <<< 1) + (BitVec.ofBool b).setWidth 40

/-- The address byte of a decoded frame, bits 39..32 (43_decoder.md R208). -/
def frameAddr (f : Frame) : BitVec 8 := f.extractLsb' 32 8

/-- The value of a decoded frame, bits 31..0 (43_decoder.md R208). -/
def frameValue (f : Frame) : BitVec 32 := f.extractLsb' 0 32

/-- The effective length of a decode, min(N, CAP_DEPTH) (43_decoder.md R201). -/
def effectiveLen (c : Config) (n : BitVec 16) : BitVec 16 :=
  BitVec.ofNat 16 (min n.toNat c.capDepth)

/-- The bit of a level (00_scope.md R12). -/
def levelBit : Level → BitVec 1
  | .off => 0
  | .on => 1

/-- The 1 + DUR_W bits of a PulseSegment: the level in bit DUR_W, the duration below it (30_encoding.md R101, R103). -/
def packSegment (c : Config) (p : PulseSegment) : BitVec (1 + c.durW) :=
  levelBit p.level ++ BitVec.ofNat c.durW p.dur

/-- The PulseSegment of 1 + DUR_W bits (30_encoding.md R101, R103). -/
def unpackSegment (c : Config) (v : BitVec (1 + c.durW)) : PulseSegment :=
  ⟨if v.getLsbD c.durW then .on else .off, (v.extractLsb' 0 c.durW).toNat⟩

end Sys2Proof.Machine
end

