-- ==== Sys2Proof/Machine/Flags.lean ====
section
/-! DEFINITION. The STATUS fields that are computed, the STATUS word and the register map (10_state.md R37 to R45),
and the checksum comparison (43_decoder.md R209). -/

namespace Sys2Proof.Machine

/-- STATUS.ENC_BUSY (10_state.md R38). -/
def encBusy (s : State) : Bool := s.encSt ≠ .idle

/-- STATUS.DEC_BUSY (10_state.md R39). -/
def decBusy (s : State) : Bool := s.decSt ≠ .idle

/-- The code of DEC_ERR (60_exceptions.md R260). -/
def errCode : DecErr → BitVec 2
  | .none => 0
  | .malformedHeader => 1
  | .truncatedFrame => 2
  | .ambiguousTiming => 3

/-- The code of ENC_ST (10_state.md R22). -/
def encStCode : EncState → BitVec 2
  | .idle => 0
  | .hdr => 1
  | .slot => 2
  | .trl => 3

/-- The code of DEC_ST (10_state.md R25). -/
def decStCode : DecState → BitVec 2
  | .idle => 0
  | .awaitHeader => 1
  | .readBits => 2
  | .done => 3

/-- STATUS (10_state.md R37). -/
def statusWord (s : State) : RegWord :=
  0#24 ++ BitVec.ofBool s.cmdErr ++ BitVec.ofBool s.ckmm ++ errCode s.decErr ++ BitVec.ofBool s.decOk ++
    BitVec.ofBool s.decDone ++ BitVec.ofBool (decBusy s) ++ BitVec.ofBool (encBusy s)

/-- The register map; reserved addresses read 0 (10_state.md R45). -/
def regAt (s : State) (addr : BitVec 4) : RegWord :=
  match addr.toNat with
  | 0 => statusWord s
  | 1 => s.decValue
  | 2 => s.decAddr.setWidth 32
  | 3 => s.decBits.setWidth 32
  | 4 => s.decProto.setWidth 32
  | 5 => s.decSlots.setWidth 32
  | 6 => s.ckRes.setWidth 32
  | _ => 0

/-- ChecksumMismatch(acc) (43_decoder.md R209). -/
def checksumMismatch (c : Config) (acc : Frame) : Bool :=
  acc.extractLsb' 0 4 != checksum c (acc.extractLsb' 16 8) (acc.extractLsb' 8 8)

end Sys2Proof.Machine
end

