-- ==== Sys2Proof/Machine/Ops.lean ====
section
/-! DEFINITION. The named operations over the state: the capture buffer, CapRead and CapWrite (20_memory.md R64, R65,
R80; 40_port.md R131), Emit (R66), acceptance of a word (40_port.md R120), the start of an encode and of a decode, the
recording of an error (43_decoder.md R215, 40_port.md R122) and reset (70_reset_and_hazards.md R290).

The core has no trap (60_exceptions.md R269): `failDecode` and `commandError` are what the spec has in its place. -/

namespace Sys2Proof.Machine

/-- What capture entry `i` holds; `none` if it has not been written since power-on (20_memory.md R65; log 5). This is
the ONE definition of what an unlisted entry reads as. -/
def capGet : Memory → Nat → Option PulseSegment
  | [], _ => none
  | (j, q) :: m, i => if i = j then some q else capGet m i

/-- Entry `i` replaced whole (20_memory.md R70), the canonical form kept. -/
def capPut : Memory → Nat → PulseSegment → Memory
  | [], i, p => [(i, p)]
  | (j, q) :: m, i, p =>
    if i < j then (i, p) :: (j, q) :: m
    else if i = j then (i, p) :: m
    else (j, q) :: capPut m i p

/-- The values entry `i` held before each CapWrite of the running decode, oldest first; the first is the value at DEC
acceptance (20_memory.md R80). -/
def oldValues (s : State) (i : Nat) : List (Option PulseSegment) :=
  (s.overwritten.filter (fun e => e.1 == i)).map Prod.snd

/-- Every value R80 admits for a read of entry `i`: what it held at DEC acceptance and whatever was written since. -/
def raceCandidates (s : State) (i : Nat) : List (Option PulseSegment) :=
  oldValues s i ++ [capGet s.cap i]

/-- One of the values R80 admits, a free choice. An entry that had never been written when the decode was accepted held
an unspecified value (R65): DEDUCED (log 7), that candidate is a free entry. -/
def racePick (c : Config) (s : State) (i : Nat) : PulseSegment :=
  let k := Config.raceChoice s.freeCount % (raceCandidates s i).length
  match (raceCandidates s i).getD k none with
  | some p => p
  | none => unpackSegment c (Config.unwrittenSegment c.durW s.freeCount)

/-- CapRead(i) (20_memory.md R64): the entry as last written, `none` where it has not been written since power-on
(R65); for an entry written while this decode runs, one of the values R80 admits, and the count of free values moves
on. -/
def capRead (c : Config) (s : State) (i : Nat) : Option (PulseSegment × State) :=
  if oldValues s i = [] then
    (capGet s.cap i).map (fun p => (p, s))
  else
    some (racePick c s i, { s with freeCount := s.freeCount + 1 })

/-- CapWrite(i, level, dur) (40_port.md R131): an index at or above CAP_DEPTH is ignored. While a decode runs the value
replaced is kept for R80. -/
def capWrite (c : Config) (s : State) (index : BitVec 16) (p : PulseSegment) : State :=
  if index.toNat < c.capDepth then
    { s with
      cap := capPut s.cap index.toNat p
      overwritten :=
        if decBusy s then s.overwritten ++ [(index.toNat, capGet s.cap index.toNat)] else s.overwritten }
  else s

/-- Emit(level, dur) (20_memory.md R66). -/
def emit (s : State) (p : PulseSegment) : State :=
  { s with emitted := s.emitted ++ [p] }

/-- The port accepts the word the HOST presents, and the HOST goes on to its next one (40_port.md R120, R124; 10_state.md
R49). -/
def acceptWord (s : State) : State :=
  { s with hostWords := s.hostWords.tail }

/-- The writes of an accepted ENC.TW or ENC.RAW (42_encoder.md R161, R162). -/
def startEncode (s : State) (f : Frame) : State :=
  { s with encFrame := f, encIdx := 0, encSt := .hdr }

/-- The writes of an accepted DEC (43_decoder.md R200). -/
def startDecode (c : Config) (s : State) (n : BitVec 16) : State :=
  { s with
    decLen := effectiveLen c n
    decIdx := 0
    decAcc := 0
    decValue := 0
    decAddr := 0
    decBits := 0
    decProto := 0
    decSlots := 0
    decDone := false
    decOk := false
    decErr := .none
    ckmm := false
    decSt := .awaitHeader
    overwritten := [] }

/-- fail(code), the failed termination (43_decoder.md R215). DEC_ACC, DEC_IDX and DEC_LEN keep their values. -/
def failDecode (s : State) (code : DecErr) : State :=
  { s with
    decErr := code
    decOk := false
    decDone := true
    ckmm := false
    decSlots := s.decIdx
    decValue := 0
    decAddr := 0
    decBits := 0
    decProto := 0
    decSt := .idle
    overwritten := [] }

/-- The successful termination, the writes of the DONE step: DEC_BITS and DEC_SLOTS the FRAME_BITS = 40 slots of the frame
(43_decoder.md R208). -/
def finishDecode (c : Config) (s : State) : State :=
  { s with
    decAddr := frameAddr s.decAcc
    decValue := frameValue s.decAcc
    decBits := BitVec.ofNat 8 c.frameBits
    decProto := c.protoId
    decSlots := BitVec.ofNat 6 c.frameBits
    ckmm := checksumMismatch c s.decAcc
    decOk := true
    decErr := .none
    decDone := true
    decSt := .idle
    overwritten := [] }

/-- CommandError: CMD_ERR is set, nothing else (40_port.md R122, 60_exceptions.md R265). -/
def commandError (s : State) : State :=
  { s with cmdErr := true }

/-- The one write of CKSUM (41_checksum.md R142). -/
def setCkRes (s : State) (v : BitVec 4) : State :=
  { s with ckRes := v }

/-- The HOST receives a register's value (40_port.md R130). -/
def logRead (s : State) (addr : BitVec 4) : State :=
  { s with reads := s.reads ++ [(addr, regAt s addr)] }

/-- Reset asserted on a running core (70_reset_and_hazards.md R290): every register takes its reset value; CAP and
EMITTED are kept (R292, R293), and so is the word the HOST holds (R294). DEDUCED (log 12): the decode is abandoned, so
no race of it is left. -/
def resetCore (s : State) : State :=
  { s with
    encSt := .idle
    encFrame := 0
    encIdx := 0
    decSt := .idle
    decAcc := 0
    decIdx := 0
    decLen := 0
    decValue := 0
    decAddr := 0
    decBits := 0
    decProto := 0
    decSlots := 0
    ckRes := 0
    decDone := false
    decOk := false
    decErr := .none
    ckmm := false
    cmdErr := false
    overwritten := [] }

/-- The turn at the head of the schedule is taken (log 1). -/
def endTurn (s : State) : State :=
  { s with turns := s.turns.tail }

end Sys2Proof.Machine
end

