-- ==== Sys2Proof/Machine/ChecksumUnit.lean ====
section
/-! DEFINITION. The checksum unit's command (41_checksum.md). -/

namespace Sys2Proof.Machine

/-- CKSUM team, weapon: never held (41_checksum.md R142). -/
def execCksum (team weapon : BitVec 8) (s : State) : Host.Outcome State Fault Refusal :=
  .next (setCkRes (acceptWord s) (checksum Config.hw team weapon))

end Sys2Proof.Machine
end

