-- ==== Sys2Proof/Machine/Decoder.lean ====
section
/-! DEFINITION. The decoder: the meaning of DEC and the decoder's own steps (43_decoder.md). -/

namespace Sys2Proof.Machine

/-- DEC n: accepted when the decoder is IDLE, else held: nothing changes and the word stays with the HOST (43_decoder.md
R200, 40_port.md R120, R121). -/
def execDec (n : BitVec 16) (s : State) : Host.Outcome State Fault Refusal :=
  .next (if s.decSt = .idle then startDecode Config.hw (acceptWord s) n else s)

/-- The AWAIT_HEADER step (43_decoder.md R204). -/
def awaitHeaderStep (c : Config) (s : State) : Host.Outcome State Fault Refusal :=
  if s.decLen = 0 then .next (failDecode s .malformedHeader)
  else
    match capRead c s 0 with
    | none => .fault (.unwrittenCapture 0)
    | some (p, t) =>
      if hdrOk c p then .next { t with decSt := .readBits }
      else .next (failDecode t .malformedHeader)

/-- What the READ_BITS step does with a present entry: polarity before duration (43_decoder.md R205, R211). -/
def takeSlot (c : Config) (p : PulseSegment) (s : State) : State :=
  if p.level ≠ slotLevel s.decIdx.toNat then failDecode s .truncatedFrame
  else
    match classify c p.dur with
    | none => failDecode s .ambiguousTiming
    | some b =>
      { s with
        decAcc := shiftIn s.decAcc b
        decIdx := s.decIdx + 1
        decSt := if s.decIdx.toNat + 1 = c.frameBits then .done else .readBits }

/-- The READ_BITS step: presence first (43_decoder.md R205). DESIGN CHOICE (log 14): in a state no run reaches, with
DEC_IDX at or above 40, it goes by the same text. -/
def readBitsStep (c : Config) (s : State) : Host.Outcome State Fault Refusal :=
  if s.decLen.toNat ≤ s.decIdx.toNat + 1 then .next (failDecode s .truncatedFrame)
  else
    match capRead c s (s.decIdx.toNat + 1) with
    | none => .fault (.unwrittenCapture (s.decIdx.toNat + 1))
    | some (p, t) => .next (takeSlot c p t)

/-- The decoder's turn: one step is enabled in every state but IDLE (43_decoder.md R204, R205, R208; log 2). A
configuration that is not legal is refused (93_implementation_defined.md I1). -/
def decoderStep (c : Config) (s : State) : Host.Outcome State Fault Refusal :=
  if c.legal then
    match s.decSt with
    | .idle => .next s
    | .awaitHeader => awaitHeaderStep c s
    | .readBits => readBitsStep c s
    | .done => .next (finishDecode c s)
  else .refused .illegalConfiguration

end Sys2Proof.Machine
end

