-- ==== Sys2Proof/Machine/Encoder.lean ====
section
/-! DEFINITION. The encoder: the meanings of ENC.TW and ENC.RAW and the encoder's own steps (42_encoder.md). -/

namespace Sys2Proof.Machine

/-- An encode command with its frame: accepted when the encoder is IDLE, else held: nothing changes and the word stays
with the HOST (40_port.md R120, R121). -/
def encodeCommand (f : Frame) (s : State) : State :=
  if s.encSt = .idle then startEncode (acceptWord s) f else s

/-- ENC.TW team, weapon (42_encoder.md R161). -/
def execEncTw (team weapon : BitVec 8) (s : State) : Host.Outcome State Fault Refusal :=
  .next (encodeCommand (frameTW Config.hw team weapon) s)

/-- ENC.RAW value8, value32 (42_encoder.md R162). -/
def execEncRaw (value8 : BitVec 8) (value32 : BitVec 32) (s : State) : Host.Outcome State Fault Refusal :=
  .next (encodeCommand (frameRaw value8 value32) s)

/-- The header step (42_encoder.md R163). -/
def headerStep (c : Config) (s : State) : State :=
  { emit s (headerToken c) with encSt := .slot }

/-- The slot step (42_encoder.md R164). DESIGN CHOICE (log 14): in a state no run reaches, with ENC_IDX at or above 40,
it goes by the same text. -/
def slotStep (c : Config) (s : State) : State :=
  { emit s (slotToken c s.encFrame s.encIdx.toNat) with
    encIdx := s.encIdx + 1
    encSt := if s.encIdx.toNat + 1 = c.frameBits then .trl else .slot }

/-- The trailer step (42_encoder.md R167). -/
def trailerStep (c : Config) (s : State) : State :=
  { emit s (trailerToken c) with encSt := .idle }

/-- The encoder's turn: one step is enabled in every state but IDLE, none in IDLE (42_encoder.md R168; log 2). -/
def encoderStep (c : Config) (s : State) : State :=
  match s.encSt with
  | .idle => s
  | .hdr => headerStep c s
  | .slot => slotStep c s
  | .trl => trailerStep c s

end Sys2Proof.Machine
end

