-- ==== Sys2Proof/Machine/Port.lean ====
section
/-! DEFINITION. The command port's NOP and illegal word, the register read and the capture write (40_port.md). -/

namespace Sys2Proof.Machine

/-- NOP: accepted, no state of the core changes (40_port.md R123). -/
def execNop (s : State) : Host.Outcome State Fault Refusal :=
  .next (acceptWord s)

/-- An illegal word: taken and discarded, CMD_ERR set, never held (40_port.md R122, 30_encoding.md R99). -/
def illegalCommand (s : State) : Host.Outcome State Fault Refusal :=
  .next (commandError (acceptWord s))

/-- RD addr: enabled in every state, no side effect on the core (40_port.md R130, 20_memory.md R71). -/
def registerRead (addr : BitVec 4) (s : State) : Host.Outcome State Fault Refusal :=
  .next (logRead s addr)

/-- CAPW index, level, dur: enabled in every state; the port carries the DUR_W bits of dur (40_port.md R131). -/
def captureWrite (index : BitVec 16) (level : Level) (dur : PortDur) (s : State) : Host.Outcome State Fault Refusal :=
  .next (capWrite Config.hw s index ⟨level, dur.toNat⟩)

end Sys2Proof.Machine
end

