-- ==== Sys2Proof/Machine/Dispatch.lean ====
section
/-! DEFINITION. The meaning of each command, one arm per constructor (40_port.md R120). -/

namespace Sys2Proof.Machine

def exec (i : Instr) (s : State) : Host.Outcome State Fault Refusal :=
  match i with
  | .nop => Sys2Proof.Machine.execNop s
  | .encTw team weapon => Sys2Proof.Machine.execEncTw team weapon s
  | .encRaw value8 value32 => Sys2Proof.Machine.execEncRaw value8 value32 s
  | .dec n => Sys2Proof.Machine.execDec n s
  | .cksum team weapon => Sys2Proof.Machine.execCksum team weapon s

end Sys2Proof.Machine
end

