-- ==== Sys2Proof/Machine/Present.lean ====
section
/-! DEFINITION. Presenting a command word, and what each agent does with its turn (40_port.md R120, 00_scope.md R13). -/

namespace Sys2Proof.Machine

/-- The HOST presents the word it has at hand: legality first, then the command's own rule (40_port.md R120,
60_exceptions.md R268). With no word left it presents nothing (log 2). -/
def present (s : State) : Host.Outcome State Fault Refusal :=
  match s.hostWords with
  | [] => .next s
  | w :: _ =>
    match decode w with
    | .instr i => exec i s
    | .illegal _ => illegalCommand s

/-- What the agent whose turn it is does. -/
def takeTurn (t : Turn) (s : State) : Host.Outcome State Fault Refusal :=
  match t with
  | .present => present s
  | .read addr => registerRead addr s
  | .capWrite index level dur => captureWrite index level dur s
  | .encoder => .next (encoderStep Config.hw s)
  | .decoder => decoderStep Config.hw s
  | .reset => .next (resetCore s)

/-- The port's next word is `w`, and the HOST's next turn presents it. -/
def presentNext (s : State) (w : CmdWord) : State :=
  { s with hostWords := w :: s.hostWords, turns := .present :: s.turns }

end Sys2Proof.Machine
end

