-- ==== Sys2Proof/Machine/Step.lean ====
section
/-! DEFINITION. One step: one agent takes its turn (00_scope.md R13, 60_exceptions.md R268; log 1). -/

namespace Sys2Proof.Machine

/-- One step. DESIGN CHOICE (log 1): the order of the agents is free (R13), so the turns in State say who moves; with no
turn left nobody is scheduled and all state holds (60_exceptions.md R277, 40_port.md R132). -/
def step (s : State) : Host.Outcome State Fault Refusal :=
  match s.turns with
  | [] => .next s
  | t :: _ => takeTurn t (endTurn s)

/-- The table word `w` at the command port, presented by the very next step (log 4). -/
def State.withFetchWord (s : State) (nbits w : Nat) : State :=
  presentNext s (tableWord nbits w)

end Sys2Proof.Machine
end

