-- ==== Sys2Proof/Safety.lean ====
section
/-! DEFINITION. What claims speak of: the invariants of reachable states (10_state.md R29 and the rules beside them),
quiescence and the end of a run, runs under a given schedule, and what makes a decode free of the one fault. -/

namespace Sys2Proof.Machine

/-- The encoder's part of 10_state.md R29, with 42_encoder.md R164's "then ENC_IDX < 40". -/
def EncoderInv (s : State) : Prop :=
  s.encIdx.toNat ≤ 40 ∧
  (s.encSt = .trl → s.encIdx.toNat = 40) ∧
  (s.encSt = .hdr → s.encIdx = 0) ∧
  (s.encSt = .slot → s.encIdx.toNat < 40)

/-- The decoder's part of 10_state.md R29, with 43_decoder.md R205's "then DEC_IDX < 40", and DEC_LEN <= CAP_DEPTH
(R28). -/
def DecoderInv (s : State) : Prop :=
  s.decIdx.toNat ≤ 40 ∧
  (s.decSt = .done → s.decIdx.toNat = 40) ∧
  (s.decSt = .readBits → s.decIdx.toNat < 40) ∧
  (s.decSt = .awaitHeader → s.decIdx = 0 ∧ s.decAcc = 0) ∧
  s.decAcc.toNat < 2 ^ s.decIdx.toNat ∧
  s.decLen.toNat ≤ Config.hw.capDepth

/-- The result registers and flags between decodes: zero while a decode runs and after a failed one (10_state.md R31 to
R35, R301), complete after a successful one (43_decoder.md R208), and CKMM only with DEC_OK (R43). -/
def ResultInv (s : State) : Prop :=
  (s.decSt ≠ .idle → s.decDone = false) ∧
  (s.decDone = false → s.decOk = false ∧ s.decErr = .none ∧ s.decSlots = 0) ∧
  (s.decOk = false → s.ckmm = false ∧ s.decValue = 0 ∧ s.decAddr = 0 ∧ s.decBits = 0 ∧ s.decProto = 0) ∧
  (s.decOk = true → s.decErr = .none ∧ s.decBits = 40 ∧ s.decProto = Config.hw.protoId ∧ s.decSlots = 40 ∧
    s.ckmm = checksumMismatch Config.hw (s.decAddr ++ s.decValue)) ∧
  (s.decDone = true → s.decOk = false → s.decErr ≠ .none) ∧
  (s.decErr = .malformedHeader → s.decSlots = 0) ∧
  s.decSlots.toNat ≤ 40

/-- A PulseSegment's duration is DUR_W bits (00_scope.md R8, 30_encoding.md R101). -/
abbrev fitsDurW (p : PulseSegment) : Prop :=
  p.dur < 2 ^ Config.hw.durW

/-- The capture buffer: canonical, inside CAP_DEPTH, every entry 1 + DUR_W bits (10_state.md R47, 20_memory.md R63), and the
record of a race only while a decode runs and only of entries written (R80). -/
def CaptureInv (s : State) : Prop :=
  s.cap.wf ∧
  (∀ e ∈ s.cap, e.1 < Config.hw.capDepth ∧ fitsDurW e.2) ∧
  (s.decSt = .idle → s.overwritten = []) ∧
  (∀ e ∈ s.overwritten, capGet s.cap e.1 ≠ none ∧ ∀ p ∈ e.2, fitsDurW p)

/-- Every token handed to the emitter is 1 + DUR_W bits (10_state.md R48, 30_encoding.md R101). -/
def EmittedInv (s : State) : Prop :=
  ∀ p ∈ s.emitted, fitsDurW p

/-- The invariant of the machine. -/
def MachineInv (s : State) : Prop :=
  EncoderInv s ∧ DecoderInv s ∧ ResultInv s ∧ CaptureInv s ∧ EmittedInv s

/-- Both units are IDLE (60_exceptions.md R277). -/
def quiescent (s : State) : Prop :=
  s.encSt = .idle ∧ s.decSt = .idle

/-- The HOST has no command left to present and no other action left in the schedule: no register read, no capture write, no
reset (60_exceptions.md R278, "its program is finished"). A turn that presents with no word left presents nothing (log 2). -/
def programFinished (s : State) : Prop :=
  s.hostWords = [] ∧ ∀ t ∈ s.turns, t = .present ∨ t = .encoder ∨ t = .decoder

/-- A run of the model is over (60_exceptions.md R278). -/
def runOver (s : State) : Prop :=
  quiescent s ∧ programFinished s

/-- What R278 calls the observation at the end of a run: EMITTED, the registers of 10_state.md R45, and CAP. -/
structure Observation where
  emitted : List PulseSegment
  registers : List RegWord
  cap : Memory
deriving DecidableEq, Repr

/-- The observation of a state (60_exceptions.md R278). -/
def observation (s : State) : Observation where
  emitted := s.emitted
  registers := (List.range 16).map (fun a => regAt s (BitVec.ofNat 4 a))
  cap := s.cap

/-- Every entry the running decode may read has been written (70_reset_and_hazards.md R296). -/
def captureReady (s : State) : Prop :=
  ∀ i < s.decLen.toNat, capGet s.cap i ≠ none

/-- The state with its schedule replaced. -/
def withTurns (s : State) (ts : List Turn) : State :=
  { s with turns := ts }

/-- `k` steps of the machine, stopping at a fault or refusal; Host.Core.run of the core, in the machine's own types. -/
def runSteps : Nat → State → Host.Outcome State Fault Refusal
  | 0, s => .next s
  | k + 1, s =>
    match step s with
    | .next t => runSteps k t
    | .fault r => .fault r
    | .refused r => .refused r

/-- The machine run for as many steps as the schedule `ts` has turns, under that schedule. -/
def runTurns (ts : List Turn) (s : State) : Host.Outcome State Fault Refusal :=
  runSteps ts.length (withTurns s ts)

/-- `k` decoder steps in a row under a configuration, stopping at a fault or refusal. -/
def decoderRun (c : Config) : Nat → State → Host.Outcome State Fault Refusal
  | 0, s => .next s
  | k + 1, s =>
    match decoderStep c s with
    | .next t => decoderRun c k t
    | .fault r => .fault r
    | .refused r => .refused r

/-- The entry a decoder step in this state reads, if it reads one (20_memory.md R64; 43_decoder.md R204, R205). -/
def nextCapRead (s : State) : Option Nat :=
  match s.decSt with
  | .idle => none
  | .awaitHeader => if s.decLen = 0 then none else some 0
  | .readBits => if s.decLen.toNat ≤ s.decIdx.toNat + 1 then none else some (s.decIdx.toNat + 1)
  | .done => none

/-- The entries that `k` decoder steps in a row read, in order (43_decoder.md R214). -/
def capReadsOf (c : Config) : Nat → State → List Nat
  | 0, _ => []
  | k + 1, s =>
    (nextCapRead s).toList ++
      match decoderStep c s with
      | .next t => capReadsOf c k t
      | _ => []

end Sys2Proof.Machine
end

