-- ==== Sys2Proof/Certificates/Slice0/Obligations.lean ====
section
/-! DEFINITION. The statements for the provers, in the order of OBLIGATIONS.json: encoding, the port, the checksum unit,
the encoder, the decoder, the capture buffer, reset, and the machine as a whole. -/

open Sys2Proof Sys2Proof.Machine

/-! ## Encoding -/

/-- Decode and encode agree on every command with every operand (30_encoding.md sections 1 and 2). -/
def Obligations.DecodeOfEncodeIsTheCommand : Prop :=
  ∀ i : Instr, i.wf = true → decode (encode i) = .instr i

/-- A word that decodes is the one word of its command (30_encoding.md sections 1 and 2). -/
def Obligations.EncodeOfDecodeIsTheWord : Prop :=
  ∀ (w : CmdWord) (i : Instr), decode w = .instr i → encode i = w

/-- 30_encoding.md R98: a word is legal iff a row of R97 matches it; equivalently, its OP is assigned and the reserved
bits of that format are 0. The decoder gives a command exactly for these. -/
def Obligations.LegalWordsAreThoseThatDecode : Prop :=
  ∀ w : CmdWord,
    ((∃ i, decode w = .instr i) ↔ legalWord w = true) ∧
    (legalWord w = true ↔
      ∃ r ∈ ([(0x0000000000000000, 0xFFFFFFFFFFFFFFFF), (0x1000000000000000, 0xFFFFFFFFFFFF0000),
              (0x2000000000000000, 0xFFFFFF0000000000), (0x3000000000000000, 0xFFFFFFFFFFFF0000),
              (0x4000000000000000, 0xFFFFFFFFFFFF0000)] : List (CmdWord × CmdWord)),
        r.2 ≠ 0 ∧ w &&& r.2 = r.1) ∧
    (legalWord w = true ↔
      (w.toNat / 2 ^ 60 = 0 ∧ w.toNat % 2 ^ 60 = 0) ∨
      (w.toNat / 2 ^ 60 = 1 ∧ w.toNat / 2 ^ 16 % 2 ^ 44 = 0) ∨
      (w.toNat / 2 ^ 60 = 2 ∧ w.toNat / 2 ^ 40 % 2 ^ 20 = 0) ∨
      (w.toNat / 2 ^ 60 = 3 ∧ w.toNat / 2 ^ 16 % 2 ^ 44 = 0) ∨
      (w.toNat / 2 ^ 60 = 4 ∧ w.toNat / 2 ^ 16 % 2 ^ 44 = 0))

/-- At most one row of the opcode map matches any word (30_encoding.md section 2). -/
def Obligations.AtMostOneOpcodeRowMatches : Prop :=
  ∀ (w : CmdWord) (r q : OpcodeRow), r ∈ opcodeMap → q ∈ opcodeMap →
    r.selects w = true → q.selects w = true → r = q

/-- Words written out from the spec's encodings decode to the commands they stand for (30_encoding.md section 5). -/
def Obligations.WrittenOutWordsDecode : Prop :=
  decode 0x0000000000000000 = .instr .nop ∧
  decode 0x1000000000001234 = .instr (.encTw 0x12 0x34) ∧
  decode 0x200000AEAA123403 = .instr (.encRaw 0xAE 0xAA123403) ∧
  decode 0x300000000000002A = .instr (.dec 42) ∧
  decode 0x4000000000001234 = .instr (.cksum 0x12 0x34) ∧
  decode 0x5000000000000000 = .illegal .unassignedOpcode ∧
  decode 0x1000000000010034 = .illegal .reservedBitsSet

/-- The word the assembler packs, each operand reduced to its field's width (30_encoding.md section 5). -/
def Obligations.AssembledWordsPackReducedOperands : Prop :=
  (∀ t w : Nat, (assembleEncTw t w).toNat = 1 * 2 ^ 60 + t % 256 * 2 ^ 8 + w % 256) ∧
  (∀ a v : Nat, (assembleEncRaw a v).toNat = 2 * 2 ^ 60 + a % 256 * 2 ^ 32 + v % 2 ^ 32) ∧
  (∀ n : Nat, (assembleDec n).toNat = 3 * 2 ^ 60 + n % 2 ^ 16) ∧
  (∀ t w : Nat, (assembleCksum t w).toNat = 4 * 2 ^ 60 + t % 256 * 2 ^ 8 + w % 256) ∧
  assembleNop = 0

/-- A PulseSegment's 1 + DUR_W bits, for every DUR_W: the level in bit DUR_W above the duration, and no bit lost either way;
at this hardware's DUR_W = 16 it is 17 bits, with the six tokens' packed values (30_encoding.md section 4). -/
def Obligations.PulseSegmentPacking : Prop :=
  (∀ (c : Config) (p : PulseSegment), p.dur < 2 ^ c.durW →
    unpackSegment c (packSegment c p) = p ∧
    (packSegment c p).toNat = (if p.level = .on then 2 ^ c.durW else 0) + p.dur) ∧
  (∀ (c : Config) (v : BitVec (1 + c.durW)),
    packSegment c (unpackSegment c v) = v ∧ (unpackSegment c v).dur < 2 ^ c.durW) ∧
  1 + Config.hw.durW = 17 ∧
  packSegment Config.hw ⟨.on, 1600⟩ = 0x10640 ∧ packSegment Config.hw ⟨.off, 400⟩ = 0x00190 ∧
  packSegment Config.hw ⟨.on, 400⟩ = 0x10190 ∧ packSegment Config.hw ⟨.off, 800⟩ = 0x00320 ∧
  packSegment Config.hw ⟨.on, 800⟩ = 0x10320 ∧ packSegment Config.hw ⟨.off, 1000⟩ = 0x003E8

/-! ## The step and the command port -/

/-- A step runs the decoded instruction: where the HOST's turn presents a legal word, the step is that command's meaning,
the turn taken off the schedule (40_port.md section 1; the schedule is the model's, log 1). -/
def Obligations.StepRunsTheDecodedCommand : Prop :=
  ∀ (s : State) (ts : List Turn) (w : CmdWord) (ws : List CmdWord) (i : Instr),
    s.turns = .present :: ts → s.hostWords = w :: ws → decode w = .instr i → i.wf = true →
    step s = exec i { s with turns := ts }

/-- 40_port.md R122 in every state, either unit busy or not: an illegal word is taken, CMD_ERR becomes 1, and nothing
else changes; with the rule's two examples. -/
def Obligations.IllegalWordSetsOnlyCmdErr : Prop :=
  (∀ (s : State) (ts : List Turn) (w : CmdWord) (ws : List CmdWord),
    s.turns = .present :: ts → s.hostWords = w :: ws → legalWord w = false →
    step s = .next { s with turns := ts, hostWords := ws, cmdErr := true }) ∧
  legalWord 0x5000000000000000 = false ∧ legalWord 0x1000000000010034 = false

/-- NOP is accepted in every state and changes no register and nothing else of the core (40_port.md section 3). -/
def Obligations.NopOnlyTakesTheWord : Prop :=
  ∀ s : State, ∃ t, exec .nop s = .next t ∧ t = { s with hostWords := s.hostWords.tail } ∧
    ∀ a : BitVec 4, regAt t a = regAt s a

/-- A command for a busy unit is held: the step takes the turn and nothing else, the word stays with the HOST
(40_port.md section 1). -/
def Obligations.CommandForBusyUnitIsHeld : Prop :=
  ∀ (s : State) (ts : List Turn) (ws : List CmdWord), s.turns = .present :: ts →
    (∀ (t w : BitVec 8), s.encSt ≠ .idle → s.hostWords = encode (.encTw t w) :: ws →
      step s = .next { s with turns := ts }) ∧
    (∀ (a : BitVec 8) (v : BitVec 32), s.encSt ≠ .idle → s.hostWords = encode (.encRaw a v) :: ws →
      step s = .next { s with turns := ts }) ∧
    (∀ n : BitVec 16, s.decSt ≠ .idle → s.hostWords = encode (.dec n) :: ws →
      step s = .next { s with turns := ts })

/-- While an ENC word is held behind a busy encoder, no schedule without an encoder turn or a reset takes it or any word
behind it from the HOST; likewise a DEC word without a decoder turn or a reset (40_port.md section 1, order). -/
def Obligations.HeldWordDelaysAllBehindIt : Prop :=
  ∀ (s t : State) (ts : List Turn) (w : CmdWord) (ws : List CmdWord),
    s.hostWords = w :: ws → .reset ∉ ts → runTurns ts s = .next t →
    (∀ a b, s.encSt ≠ .idle → decode w = .instr (.encTw a b) → .encoder ∉ ts → t.hostWords = w :: ws) ∧
    (∀ a v, s.encSt ≠ .idle → decode w = .instr (.encRaw a v) → .encoder ∉ ts → t.hostWords = w :: ws) ∧
    (∀ n, s.decSt ≠ .idle → decode w = .instr (.dec n) → .decoder ∉ ts → t.hostWords = w :: ws)

/-- What no command touches, for all five commands at once: the encoder commands leave the decoder, the results, the
flags and CK_RES; DEC leaves the encoder, CK_RES and CMD_ERR; CKSUM and NOP leave both units and every flag; none changes
an entry of the capture buffer, a token emitted, or CMD_ERR (10_state.md sections 1 and 10). -/
def Obligations.CommandFrames : Prop :=
  ∀ (i : Instr) (s t : State), exec i s = .next t →
    ((∀ a : Nat, capGet t.cap a = capGet s.cap a) ∧ t.cap = s.cap ∧ t.emitted = s.emitted ∧ t.cmdErr = s.cmdErr ∧
      t.reads = s.reads ∧ t.turns = s.turns ∧ t.freeCount = s.freeCount) ∧
    ((∀ a b, i ≠ .cksum a b) → t.ckRes = s.ckRes) ∧
    ((∀ a b, i ≠ .encTw a b) → (∀ a v, i ≠ .encRaw a v) →
      t.encSt = s.encSt ∧ t.encFrame = s.encFrame ∧ t.encIdx = s.encIdx) ∧
    ((∀ n, i ≠ .dec n) →
      t.decSt = s.decSt ∧ t.decAcc = s.decAcc ∧ t.decIdx = s.decIdx ∧ t.decLen = s.decLen ∧
      t.decValue = s.decValue ∧ t.decAddr = s.decAddr ∧ t.decBits = s.decBits ∧ t.decProto = s.decProto ∧
      t.decSlots = s.decSlots ∧ t.decDone = s.decDone ∧ t.decOk = s.decOk ∧ t.decErr = s.decErr ∧ t.ckmm = s.ckmm ∧
      t.overwritten = s.overwritten)

/-- The STATUS word bit by bit (10_state.md section 7). -/
def Obligations.StatusWordLayout : Prop :=
  ∀ s : State,
    ((statusWord s).getLsbD 0 = true ↔ s.encSt ≠ .idle) ∧
    ((statusWord s).getLsbD 1 = true ↔ s.decSt ≠ .idle) ∧
    (statusWord s).getLsbD 2 = s.decDone ∧
    (statusWord s).getLsbD 3 = s.decOk ∧
    (statusWord s).toNat / 16 % 4 =
      (match s.decErr with | .none => 0 | .malformedHeader => 1 | .truncatedFrame => 2 | .ambiguousTiming => 3) ∧
    (statusWord s).getLsbD 6 = s.ckmm ∧
    (statusWord s).getLsbD 7 = s.cmdErr ∧
    (statusWord s).toNat < 2 ^ 8

/-- A register read returns the register its address names, zero-extended, 0 at a reserved address, and changes nothing
of the core, in every state (40_port.md section 4; 10_state.md section 8). -/
def Obligations.RegisterReadReturnsTheMap : Prop :=
  ∀ (s : State) (ts : List Turn) (a : BitVec 4), s.turns = .read a :: ts →
    ∃ v : RegWord, step s = .next { s with turns := ts, reads := s.reads ++ [(a, v)] } ∧
      v.toNat = (match a.toNat with
        | 0 => (statusWord s).toNat
        | 1 => s.decValue.toNat
        | 2 => s.decAddr.toNat
        | 3 => s.decBits.toNat
        | 4 => s.decProto.toNat
        | 5 => s.decSlots.toNat
        | 6 => s.ckRes.toNat
        | _ => 0)

/-! ## The checksum unit -/

/-- CKSUM is accepted in every state, writes CK_RES the sum mod 16, and changes nothing else (41_checksum.md section 2);
its example, and the operands whose carries are discarded. -/
def Obligations.CksumWritesTheSumMod16 : Prop :=
  (∀ (s : State) (t w : BitVec 8),
    exec (.cksum t w) s = .next { s with
      hostWords := s.hostWords.tail
      ckRes := BitVec.ofNat 4 ((0x0D + t.toNat + w.toNat) % 16) }) ∧
  (∀ s u : State, exec (.cksum 0x12 0x34) s = .next u → u.ckRes = 0x3) ∧
  (∀ s u : State, exec (.cksum 0xFF 0xFF) s = .next u → u.ckRes = 0xB)

/-- 41_checksum.md R143: range, low nibbles only, symmetry, zero operands, wrap-around, and no flag records a carry (the
command leaves STATUS as it is and never fails). -/
def Obligations.ChecksumLaws : Prop :=
  (∀ t w : BitVec 8, (checksum Config.hw t w).toNat ≤ 15) ∧
  (∀ t w : BitVec 8, (checksum Config.hw t w).toNat = (0xD + t.toNat % 16 + w.toNat % 16) % 16) ∧
  (∀ t w : BitVec 8, checksum Config.hw t w = checksum Config.hw w t) ∧
  checksum Config.hw 0 0 = 0xD ∧
  checksum Config.hw 0x03 0x00 = 0x0 ∧ checksum Config.hw 0xFF 0xFF = 0xB ∧
  (∀ (s : State) (t w : BitVec 8), ∃ u, exec (.cksum t w) s = .next u ∧ statusWord u = statusWord s)

/-- The exact sum, at most 523, reduced mod 16 (41_checksum.md R140); and the same as a 4-bit accumulator that discards every
carry, which R141 marks as derived from R140 and as decision D36. -/
def Obligations.ChecksumIsTheSumMod16 : Prop :=
  ∀ t w : BitVec 8,
    (checksum Config.hw t w).toNat = (0x0D + t.toNat + w.toNat) % 16 ∧
    0x0D + t.toNat + w.toNat ≤ 523 ∧
    checksum Config.hw t w = ((0xD : BitVec 4) + t.setWidth 4) + w.setWidth 4

/-! ## The encoder -/

/-- ENC.TW accepted by an IDLE encoder: the frame is {0xAE, 0xAA, T, W, 0, checksum} as a number, ENC_IDX 0, ENC_ST HDR,
ENC_BUSY reads 1, and nothing else changes (42_encoder.md sections 1 and 2). -/
def Obligations.EncTwLoadsItsFrame : Prop :=
  ∀ (s : State) (t w : BitVec 8), s.encSt = .idle →
    ∃ u, exec (.encTw t w) s = .next u ∧
      u = { s with
        hostWords := s.hostWords.tail
        encFrame := u.encFrame
        encIdx := 0
        encSt := .hdr } ∧
      u.encFrame.toNat = 0xAE * 2 ^ 32 + 0xAA * 2 ^ 24 + t.toNat * 2 ^ 16 + w.toNat * 2 ^ 8 +
        (0x0D + t.toNat + w.toNat) % 16 ∧
      (statusWord u).getLsbD 0 = true

/-- ENC.RAW accepted by an IDLE encoder: the frame is {A, V} = word[39:0], no field of V checked (42_encoder.md section
2). -/
def Obligations.EncRawLoadsItsOperands : Prop :=
  ∀ (s : State) (a : BitVec 8) (v : BitVec 32), s.encSt = .idle →
    ∃ u, exec (.encRaw a v) s = .next u ∧
      u = { s with
        hostWords := s.hostWords.tail
        encFrame := u.encFrame
        encIdx := 0
        encSt := .hdr } ∧
      u.encFrame.toNat = a.toNat * 2 ^ 32 + v.toNat ∧
      u.encFrame = (encode (.encRaw a v)).extractLsb' 0 40

/-- ENC.TW does in every state exactly what ENC.RAW 0xAE, pack(t, w) does (30_encoding.md section 5). -/
def Obligations.EncTwIsEncRawOfThePackedFrame : Prop :=
  ∀ (s : State) (t w : BitVec 8) (v : BitVec 32),
    v.toNat = 0xAA * 2 ^ 24 + t.toNat * 2 ^ 16 + w.toNat * 2 ^ 8 + (0x0D + t.toNat + w.toNat) % 16 →
    exec (.encTw t w) s = exec (.encRaw 0xAE v) s

/-- 42_encoder.md R163: the header step. -/
def Obligations.HeaderStepEmitsTheHeader : Prop :=
  ∀ (s : State) (ts : List Turn), s.turns = .encoder :: ts → s.encSt = .hdr →
    step s = .next { s with turns := ts, emitted := s.emitted ++ [⟨.on, 1600⟩], encSt := .slot }

/-- 42_encoder.md R164 with R165 and R166: the slot step emits the level of the slot's parity and the duration of frame
bit 39 - i, moves ENC_IDX on, and after slot 39 goes to TRL. -/
def Obligations.SlotStepEmitsTheSlot : Prop :=
  ∀ (s : State) (ts : List Turn), s.turns = .encoder :: ts → s.encSt = .slot → s.encIdx.toNat < 40 →
    ∃ u, step s = .next u ∧
      u = { s with
        turns := ts
        emitted := s.emitted ++
          [⟨if s.encIdx.toNat % 2 = 0 then .off else .on,
            if s.encFrame.getLsbD (39 - s.encIdx.toNat) then 800 else 400⟩]
        encIdx := u.encIdx
        encSt := if s.encIdx.toNat + 1 = 40 then .trl else .slot } ∧
      u.encIdx.toNat = s.encIdx.toNat + 1

/-- 42_encoder.md R167: the trailer step; every other field keeps its value, and a waiting ENC word is then accepted. -/
def Obligations.TrailerStepEndsTheEncode : Prop :=
  ∀ (s : State) (ts : List Turn), s.turns = .encoder :: ts → s.encSt = .trl →
    ∃ u, step s = .next u ∧
      u = { s with turns := ts, emitted := s.emitted ++ [⟨.off, 1000⟩], encSt := .idle } ∧
      (∀ t w, ∃ v, exec (.encTw t w) u = .next v ∧ v.encSt = .hdr ∧ v.hostWords = u.hostWords.tail) ∧
      (∀ a x, ∃ v, exec (.encRaw a x) u = .next v ∧ v.encSt = .hdr ∧ v.hostWords = u.hostWords.tail)

/-- The encoder never fails, and when busy each of its turns emits exactly one token (42_encoder.md R168). In IDLE no step is
enabled and nothing is emitted (R168); that the turn then changes nothing but the schedule is the model's choice (log 2,
DEDUCED). -/
def Obligations.EncoderIsTotal : Prop :=
  ∀ (s : State) (ts : List Turn), s.turns = .encoder :: ts →
    ∃ u, step s = .next u ∧
      (s.encSt = .idle → u = { s with turns := ts }) ∧
      (s.encSt ≠ .idle → ∃ p, u.emitted = s.emitted ++ [p])

/-- 42_encoder.md R169: after an accepted ENC.TW or ENC.RAW, under EVERY interleaving with the HOST and the decoder (no
reset), the first n encoder turns, n up to 42, append exactly the first n of the 42 tokens of the frame, and nothing else
comes between them. -/
def Obligations.EmissionSequenceUnderEveryInterleaving : Prop :=
  ∀ (s s₁ t : State) (i : Instr) (f : Frame) (ts : List Turn),
    s.encSt = .idle →
    ((∃ a b, i = .encTw a b ∧ f = frameTW Config.hw a b) ∨ (∃ a v, i = .encRaw a v ∧ f = a ++ v)) →
    exec i s = .next s₁ →
    .reset ∉ ts → ts.count .encoder ≤ 42 → runTurns ts s₁ = .next t →
    t.emitted = s.emitted ++
      ((⟨.on, 1600⟩ : PulseSegment) ::
        ((List.range 40).map (fun k =>
          (⟨if k % 2 = 0 then .off else .on, if f.getLsbD (39 - k) then 800 else 400⟩ : PulseSegment)) ++
          [⟨.off, 1000⟩])).take (ts.count .encoder)

/-- An accepted encode given 42 turns in a row emits the 42 tokens of its frame and leaves the encoder IDLE with
ENC_IDX = 40, everything else as it was (42_encoder.md sections 4 and 5). -/
def Obligations.EncodeRunsToCompletion : Prop :=
  ∀ s : State, s.encSt = .hdr → s.encIdx = 0 →
    runTurns (List.replicate 42 .encoder) s = .next { s with
      turns := []
      emitted := s.emitted ++ frameTokens Config.hw s.encFrame
      encIdx := 40
      encSt := .idle }

/-- The 42 levels of an encoded frame strictly alternate, ON first; slot i is OFF when i is even, ON when i is odd
(42_encoder.md section 5). -/
def Obligations.EncodedLevelsAlternate : Prop :=
  ∀ f : Frame, (frameTokens Config.hw f).length = 42 ∧
    (∀ (k : Nat) (p : PulseSegment), (frameTokens Config.hw f)[k]? = some p →
      (p.level = .on ↔ k % 2 = 0)) ∧
    (∀ i < 40, ∃ p, (frameTokens Config.hw f)[i + 1]? = some p ∧ (p.level = .off ↔ i % 2 = 0))

/-- Back-to-back encodes: a second ENC word presented while the first frame is sent is held, is accepted after the trailer,
and the two frames' tokens follow each other with none between (42_encoder.md section 5). -/
def Obligations.BackToBackEncodesDoNotInterleave : Prop :=
  ∀ (s : State) (a b : BitVec 8) (v x : BitVec 32) (ws : List CmdWord), s.encSt = .idle →
    s.hostWords = encode (.encRaw a v) :: encode (.encRaw b x) :: ws →
    ∃ t, runTurns ([.present, .present] ++ List.replicate 42 .encoder ++ [.present] ++ List.replicate 42 .encoder) s
        = .next t ∧
      t.emitted = s.emitted ++ frameTokens Config.hw (a ++ v) ++ frameTokens Config.hw (b ++ x) ∧
      t.hostWords = ws ∧ t.encSt = .idle

/-- The airtime of a frame: 2600 + 400 z + 800 u, with u ones and z zeros in the frame (42_encoder.md section 5). -/
def Obligations.FrameAirtime : Prop :=
  ∀ f : Frame,
    ((frameTokens Config.hw f).map (fun p => p.dur)).sum =
      1600 + 1000 + 400 * ((List.range 40).countP (fun i => !f.getLsbD i)) +
        800 * ((List.range 40).countP (fun i => f.getLsbD i))

/-! ## The decoder -/

/-- DEC accepted by an IDLE decoder: DEC_LEN = min(N, 64), every result, flag and counter of the decoder cleared, DEC_BUSY
reads 1, nothing else changed (43_decoder.md section 1). -/
def Obligations.DecClearsResultsAndStarts : Prop :=
  ∀ (s : State) (n : BitVec 16), s.decSt = .idle →
    ∃ u, exec (.dec n) s = .next u ∧
      u = { s with
        hostWords := s.hostWords.tail
        decLen := u.decLen
        decIdx := 0, decAcc := 0
        decValue := 0, decAddr := 0, decBits := 0, decProto := 0, decSlots := 0
        decDone := false, decOk := false, decErr := .none, ckmm := false
        decSt := .awaitHeader
        overwritten := [] } ∧
      u.decLen.toNat = min n.toNat 64 ∧
      (statusWord u).getLsbD 1 = true

/-- 43_decoder.md R202 and R203: the bands 300..500 and 600..1000, NONE outside, by the duration alone; the bit bands are
disjoint in every legal configuration; a header is ON within 1200..2000. -/
def Obligations.ClassifyByToleranceWindow : Prop :=
  (∀ (c : Config) (d : Dur), c.legal = true →
    ¬ ((c.zeroMin ≤ d ∧ d ≤ c.zeroMax) ∧ (c.oneMin ≤ d ∧ d ≤ c.oneMax))) ∧
  ∀ d : Dur,
    (classify Config.hw d = some false ↔ 300 ≤ d ∧ d ≤ 500) ∧
    (classify Config.hw d = some true ↔ 600 ≤ d ∧ d ≤ 1000) ∧
    (classify Config.hw d = none ↔ ¬ (300 ≤ d ∧ d ≤ 500) ∧ ¬ (600 ≤ d ∧ d ≤ 1000)) ∧
    (∀ l : Level, hdrOk Config.hw ⟨l, d⟩ = true ↔ l = .on ∧ 1200 ≤ d ∧ d ≤ 2000)

/-- 43_decoder.md R204: the AWAIT_HEADER step, on the entry CapRead(0) answers: MalformedHeader when it is absent, of the
wrong level or out of band, else READ_BITS. -/
def Obligations.AwaitHeaderStep : Prop :=
  ∀ (s : State) (ts : List Turn), s.turns = .decoder :: ts → s.decSt = .awaitHeader →
    (s.decLen = 0 → step s = .next (failDecode (withTurns s ts) .malformedHeader)) ∧
    (∀ (p : PulseSegment) (u : State), s.decLen ≠ 0 → capRead Config.hw (withTurns s ts) 0 = some (p, u) →
      step s = .next
        (if p.level = .on ∧ 1200 ≤ p.dur ∧ p.dur ≤ 2000 then { u with decSt := .readBits }
         else failDecode u .malformedHeader))

/-- 43_decoder.md R205 with R202, R206, R207 and R211: the READ_BITS step, on the entry CapRead(i + 1) answers: presence
first, then polarity, then duration; a classified bit is shifted in at bit 0. -/
def Obligations.ReadBitsStep : Prop :=
  ∀ (s : State) (ts : List Turn), s.turns = .decoder :: ts → s.decSt = .readBits → s.decIdx.toNat < 40 →
    (s.decLen.toNat ≤ s.decIdx.toNat + 1 → step s = .next (failDecode (withTurns s ts) .truncatedFrame)) ∧
    (∀ (p : PulseSegment) (u : State), s.decIdx.toNat + 1 < s.decLen.toNat →
      capRead Config.hw (withTurns s ts) (s.decIdx.toNat + 1) = some (p, u) →
      step s = .next
        (if p.level ≠ (if s.decIdx.toNat % 2 = 0 then .off else .on) then failDecode u .truncatedFrame
         else if 300 ≤ p.dur ∧ p.dur ≤ 500 then { u with
           decAcc := s.decAcc <<< 1
           decIdx := s.decIdx + 1
           decSt := if s.decIdx.toNat + 1 = 40 then .done else .readBits }
         else if 600 ≤ p.dur ∧ p.dur ≤ 1000 then { u with
           decAcc := s.decAcc <<< 1 + 1
           decIdx := s.decIdx + 1
           decSt := if s.decIdx.toNat + 1 = 40 then .done else .readBits }
         else failDecode u .ambiguousTiming))

/-- 43_decoder.md R208 with R209: the DONE step writes all results and flags of a success at once, CKMM the comparison of
the checksum subfield with the sum of the team and weapon subfields; everything else keeps its value, and a waiting DEC
word is then accepted. -/
def Obligations.DoneStepWritesTheResult : Prop :=
  ∀ (s : State) (ts : List Turn), s.turns = .decoder :: ts → s.decSt = .done →
    ∃ u, step s = .next u ∧
      u = { s with
        turns := ts
        decAddr := s.decAcc.extractLsb' 32 8
        decValue := s.decAcc.extractLsb' 0 32
        decBits := 40
        decProto := Config.openProtoId
        decSlots := 40
        ckmm := decide (s.decAcc.toNat % 16 ≠
          (0x0D + s.decAcc.toNat / 65536 % 256 + s.decAcc.toNat / 256 % 256) % 16)
        decOk := true, decErr := .none, decDone := true
        decSt := .idle
        overwritten := [] } ∧
      (∀ n, ∃ v, exec (.dec n) u = .next v ∧ v.decSt = .awaitHeader ∧ v.hostWords = u.hostWords.tail)

/-- 43_decoder.md R215: what a decoder step that ends in failure leaves, in any state: code 1, 2 or 3,
DEC_DONE without DEC_OK, CKMM 0, DEC_SLOTS the slots classified, the results 0, the datapath registers and everything
outside the decoder as they were; and a waiting DEC word is then accepted. -/
def Obligations.FailedDecodeRecord : Prop :=
  ∀ (s u : State) (ts : List Turn), s.turns = .decoder :: ts → s.decSt ≠ .idle → step s = .next u →
    u.decSt = .idle → u.decOk = false →
      (errCode u.decErr = 1 ∨ errCode u.decErr = 2 ∨ errCode u.decErr = 3) ∧
      u = { s with
        turns := ts
        decErr := u.decErr
        decOk := false, decDone := true, ckmm := false
        decSlots := s.decIdx
        decValue := 0, decAddr := 0, decBits := 0, decProto := 0
        decSt := .idle
        overwritten := []
        freeCount := u.freeCount } ∧
      (∀ n, ∃ v, exec (.dec n) u = .next v ∧ v.decSt = .awaitHeader ∧ v.hostWords = u.hostWords.tail)

/-- The decode recovers ANY frame: with CAP[0..41] holding the frame's tokens, DEC 42 and then, under every interleaving
with the HOST (no capture write, no reset) and the encoder, 42 decoder turns, the last one ending the schedule, DEC_ADDR and
DEC_VALUE are the frame, with success and 40 bits, and CKMM says whether the checksum subfield differs (43_decoder.md
sections 3 and 5). -/
def Obligations.DecodeRecoversAnyFrame : Prop :=
  ∀ (s : State) (f : Frame) (ts : List Turn) (ws : List CmdWord), s.decSt = .idle →
    s.hostWords = encode (.dec 42) :: ws →
    (∀ k < 42, capGet s.cap k = (frameTokens Config.hw f)[k]?) →
    .reset ∉ ts → (∀ i l d, .capWrite i l d ∉ ts) → ts.count .decoder = 41 →
    ∃ u, runTurns (.present :: ts ++ [.decoder]) s = .next u ∧
      u.decSt = .idle ∧ u.decDone = true ∧ u.decOk = true ∧ u.decErr = .none ∧
      u.decAddr = f.extractLsb' 32 8 ∧ u.decValue = f.extractLsb' 0 32 ∧
      u.decBits = 40 ∧ u.decSlots = 40 ∧ u.decProto = Config.openProtoId ∧
      u.ckmm = checksumMismatch Config.hw f

/-- 43_decoder.md R212: the round trip for every team and weapon code, in every legal configuration (with the protocol
constants of 00_scope.md R7) whose bands contain the nominal durations, whatever its DUR_W, CAP_DEPTH and tolerance. Legal is
what the spec asks and nothing of the model's own: R8's conditions, DUR_W >= 11 (93_implementation_defined.md I13), and a
frame of the 40 bits R9 fixes. -/
def Obligations.RoundTripInEveryLegalConfiguration : Prop :=
  (∀ (c : Config) (t w : BitVec 8) (s : State),
    c.legal = true → c.hasProtocolConstants = true →
    c.zeroMin ≤ 400 → 400 ≤ c.zeroMax → c.oneMin ≤ 800 → 800 ≤ c.oneMax → c.hdrMin ≤ 1600 → 1600 ≤ c.hdrMax →
    (∀ k < 42, capGet s.cap k = (frameTokens c (frameTW c t w))[k]?) →
    ∃ u, decoderRun c 42 (startDecode c s 42) = .next u ∧ u.decSt = .idle ∧
      u.decOk = true ∧ u.decErr = .none ∧ u.decAddr = 0xAE ∧ u.decValue = packTW c t w ∧
      u.decValue.extractLsb' 16 8 = t ∧ u.decValue.extractLsb' 8 8 = w ∧
      (u.decValue.extractLsb' 0 4).toNat = (0x0D + t.toNat + w.toNat) % 16 ∧
      u.ckmm = false ∧ u.decBits = 40 ∧ u.decSlots = 40) ∧
  (Config.hw.legal = true ∧ Config.hw.hasProtocolConstants = true ∧ Config.hw.bandsHoldNominal = true)

/-- An accepted DEC whose entries have all been written ends within 42 decoder steps, within 41 when it fails, and a success
reports 40 bits; no step faults (43_decoder.md section 5; 70_reset_and_hazards.md section 2). The premise stands because the
model faults on an entry never written (log 5). -/
def Obligations.DecodeTerminates : Prop :=
  ∀ s : State, s.decSt = .awaitHeader → s.decIdx = 0 → captureReady s →
    ∃ u, decoderRun Config.hw 42 s = .next u ∧ u.decSt = .idle ∧ u.decDone = true ∧
      (u.decOk = true → u.decBits = 40) ∧
      (u.decOk = false → decoderRun Config.hw 41 s = .next u)

/-- Which entries a decode reads, in order: 0..40 on success, only entry 0 (or none) on MalformedHeader, and up to the
failing entry, when that is present, on a slot's error (43_decoder.md section 5; 20_memory.md section 1). -/
def Obligations.DecodeReadsEntriesInOrderOnce : Prop :=
  ∀ s u : State, s.decSt = .awaitHeader → s.decIdx = 0 → decoderRun Config.hw 42 s = .next u →
    (u.decOk = true → capReadsOf Config.hw 42 s = List.range 41) ∧
    (u.decErr = .malformedHeader → capReadsOf Config.hw 42 s = if s.decLen = 0 then [] else [0]) ∧
    (u.decErr = .truncatedFrame → capReadsOf Config.hw 42 s =
      if s.decLen.toNat ≤ u.decSlots.toNat + 1 then List.range (u.decSlots.toNat + 1)
      else List.range (u.decSlots.toNat + 2)) ∧
    (u.decErr = .ambiguousTiming → capReadsOf Config.hw 42 s = List.range (u.decSlots.toNat + 2))

/-- The trailer and every later entry are never read: two captures that agree on entries 0..40 give the same decode
(43_decoder.md section 4). -/
def Obligations.EntriesAfterSlot39DoNotMatter : Prop :=
  ∀ (s : State) (m : Memory) (k : Nat), s.decSt = .awaitHeader → s.decIdx = 0 → s.overwritten = [] →
    (∀ i ≤ 40, capGet m i = capGet s.cap i) →
    (∀ t, decoderRun Config.hw k s = .next t → decoderRun Config.hw k { s with cap := m } = .next { t with cap := m }) ∧
    (∀ r, decoderRun Config.hw k s = .fault r → decoderRun Config.hw k { s with cap := m } = .fault r)

/-! ## The capture buffer -/

/-- 40_port.md R131: a capture write below CAP_DEPTH replaces that entry whole and leaves every other; at or above it
nothing changes; no register or flag changes, in every state. (The record of a race, log 6, is the model's own.) -/
def Obligations.CaptureWriteReplacesOneEntry : Prop :=
  ∀ (s : State) (ts : List Turn) (i : BitVec 16) (l : Level) (d : PortDur), s.turns = .capWrite i l d :: ts →
    (i.toNat < 64 → ∃ u, step s = .next u ∧
      u = { s with turns := ts, cap := u.cap, overwritten := u.overwritten } ∧
      (∀ j : Nat, capGet u.cap j = if j = i.toNat then some ⟨l, d.toNat⟩ else capGet s.cap j) ∧
      (s.decSt = .idle → u.overwritten = s.overwritten)) ∧
    (64 ≤ i.toNat → step s = .next { s with turns := ts }) ∧
    packSegment Config.hw ⟨.on, 1600⟩ = 0x10640

/-- The race on the capture buffer: after any capture writes made while a decode runs, a read of entry i gives the value
it held before them or one of those written to it since, and exactly the held value, drawing no free value, where none of
them wrote it (20_memory.md sections 1 and 6). -/
def Obligations.RaceReadGivesOldOrNewValue : Prop :=
  ∀ (s : State) (writes : List (BitVec 16 × PulseSegment)) (i : Nat) (v p : PulseSegment) (t : State),
    s.decSt ≠ .idle → s.overwritten = [] → capGet s.cap i = some v →
    capRead Config.hw (writes.foldl (fun u e => capWrite Config.hw u e.1 e.2) s) i = some (p, t) →
    (p = v ∨ ∃ e ∈ writes, e.1.toNat = i ∧ e.2 = p) ∧
    ((∀ e ∈ writes, e.1.toNat ≠ i) → p = v ∧ t = writes.foldl (fun u e => capWrite Config.hw u e.1 e.2) s)

/-- The one fault: a decoder step that reads an entry never written stops with that entry's index (20_memory.md section
1). -/
def Obligations.UnwrittenEntryReadFaults : Prop :=
  ∀ (s : State) (ts : List Turn), s.turns = .decoder :: ts → s.overwritten = [] →
    (s.decSt = .awaitHeader → s.decLen ≠ 0 → capGet s.cap 0 = none → step s = .fault (.unwrittenCapture 0)) ∧
    (s.decSt = .readBits → s.decIdx.toNat + 1 < s.decLen.toNat → capGet s.cap (s.decIdx.toNat + 1) = none →
      step s = .fault (.unwrittenCapture (s.decIdx.toNat + 1)))

/-! ## Reset -/

/-- A reset takes every register and flag to its reset value in one step, whatever the units were doing (70_reset_and_hazards.md
R290, 10_state.md R51), and keeps CAP (R292) and EMITTED (R293). That it drops the record of a race and keeps the HOST's words
and received values is the model's choice (log 12, DEDUCED; of the held word R294 says only that the HOST may present it again,
log 3), as is that it draws no free value (log 6). -/
def Obligations.ResetClearsAllButCapAndEmitted : Prop :=
  ∀ (s : State) (ts : List Turn), s.turns = .reset :: ts →
    ∃ u, step s = .next u ∧
      u = { State.reset with
        cap := s.cap, emitted := s.emitted, hostWords := s.hostWords, reads := s.reads, freeCount := s.freeCount
        turns := ts } ∧
      ∀ a : BitVec 4, regAt u a = 0

/-- 70_reset_and_hazards.md R290 and 10_state.md R51 at power-on: both units IDLE, every register and flag 0, EMITTED empty;
and that no entry of CAP has been written (the model's form of "unspecified", log 5). -/
def Obligations.PowerOnValues : Prop :=
  State.reset.encSt = .idle ∧ State.reset.encFrame = 0 ∧ State.reset.encIdx = 0 ∧
  State.reset.decSt = .idle ∧ State.reset.decAcc = 0 ∧ State.reset.decIdx = 0 ∧ State.reset.decLen = 0 ∧
  State.reset.decErr = .none ∧ State.reset.cmdErr = false ∧ State.reset.emitted = [] ∧
  (∀ a : BitVec 4, regAt State.reset a = 0) ∧
  (∀ i, capGet State.reset.cap i = none)

/-! ## The machine as a whole -/

/-- The invariant holds at reset (10_state.md R29 and the rules MachineInv names). -/
def Obligations.InvariantHoldsAtReset : Prop :=
  MachineInv State.reset

/-- Every step keeps the invariant, from every state that has it: the sequencing of both units, the results and flags, the
canonical form and depth of the capture buffer, and the DUR_W bits of every duration held or emitted. -/
def Obligations.InvariantKeptByEveryStep : Prop :=
  ∀ s t : State, MachineInv s → step s = .next t → MachineInv t

/-- 10_state.md R29: its invariants hold in every state the machine reaches from reset, whatever the HOST presents and in
whatever order the agents move. -/
def Obligations.SequencingInvariantsOfReachableStates : Prop :=
  ∀ (ts : List Turn) (ws : List CmdWord) (k : Nat) (t : State),
    runSteps k { State.reset with turns := ts, hostWords := ws } = .next t →
    t.encIdx.toNat ≤ 40 ∧
    (t.encSt = .trl → t.encIdx.toNat = 40) ∧
    (t.encSt = .hdr → t.encIdx.toNat = 0) ∧
    t.decIdx.toNat ≤ 40 ∧
    (t.decSt = .done ↔ t.decSt ≠ .idle ∧ t.decIdx.toNat = 40) ∧
    (t.decSt = .awaitHeader → t.decIdx.toNat = 0 ∧ t.decAcc.toNat = 0) ∧
    t.decAcc.toNat < 2 ^ t.decIdx.toNat

/-- While a decode runs, a HOST that reads early reads zeros from every result register, and no done, ok, error or mismatch
bit (70_reset_and_hazards.md section 3). -/
def Obligations.ResultsReadZeroDuringDecode : Prop :=
  ∀ s : State, MachineInv s → s.decSt ≠ .idle →
    regAt s 1 = 0 ∧ regAt s 2 = 0 ∧ regAt s 3 = 0 ∧ regAt s 4 = 0 ∧ regAt s 5 = 0 ∧
    (statusWord s).toNat / 4 % 32 = 0

/-- Between the end of a decode and the next accepted DEC or reset, every step keeps the results and the decode's flags
(20_memory.md section 5). -/
def Obligations.ResultsStayUntilNextDecode : Prop :=
  ∀ s t : State, s.decSt = .idle → step s = .next t → s.turns.head? ≠ some .reset → t.decSt = .idle →
    t.decValue = s.decValue ∧ t.decAddr = s.decAddr ∧ t.decBits = s.decBits ∧ t.decProto = s.decProto ∧
    t.decSlots = s.decSlots ∧ t.decDone = s.decDone ∧ t.decOk = s.decOk ∧ t.decErr = s.decErr ∧ t.ckmm = s.ckmm

/-- 10_state.md R44: an illegal word sets CMD_ERR, every step but reset keeps it set, and reset clears it. -/
def Obligations.CmdErrIsSticky : Prop :=
  (∀ (s t : State) (ts : List Turn) (w : CmdWord) (ws : List CmdWord), s.turns = .present :: ts →
    s.hostWords = w :: ws → legalWord w = false → step s = .next t → t.cmdErr = true) ∧
  (∀ s t : State, s.cmdErr = true → s.turns.head? ≠ some .reset → step s = .next t → t.cmdErr = true) ∧
  (∀ s t : State, s.turns.head? = some .reset → step s = .next t → t.cmdErr = false) ∧
  (∀ s t : State, s.cmdErr = false → t.cmdErr = true → step s = .next t →
    s.turns.head? = some .present ∧ ∃ w ws, s.hostWords = w :: ws ∧ legalWord w = false)

/-- EMITTED only ever grows at its end, by one token of an encoder's turn (10_state.md section 9, 20_memory.md section
1). -/
def Obligations.EmittedGrowsOnlyByEncoderTokens : Prop :=
  ∀ s t : State, step s = .next t →
    t.emitted = s.emitted ∨ (s.turns.head? = some .encoder ∧ s.encSt ≠ .idle ∧ ∃ p, t.emitted = s.emitted ++ [p])

/-- Each unit's own steps touch only what it owns: an encoder turn nothing of the decoder, the results, the flags, CK_RES
or CAP; a decoder turn nothing of the encoder, EMITTED, CK_RES, CMD_ERR or CAP (10_state.md section 1). -/
def Obligations.UnitStepsTouchOnlyTheirOwnState : Prop :=
  ∀ s t : State, step s = .next t →
    (s.turns.head? = some .encoder →
      t = { s with turns := s.turns.tail, encSt := t.encSt, encIdx := t.encIdx, emitted := t.emitted }) ∧
    (s.turns.head? = some .decoder →
      t.encSt = s.encSt ∧ t.encFrame = s.encFrame ∧ t.encIdx = s.encIdx ∧ t.emitted = s.emitted ∧
      t.ckRes = s.ckRes ∧ t.cmdErr = s.cmdErr ∧ t.decLen = s.decLen ∧ t.hostWords = s.hostWords ∧
      t.reads = s.reads ∧ t.turns = s.turns.tail ∧ ∀ a : Nat, capGet t.cap a = capGet s.cap a)

/-- The order of an encoder turn and a decoder turn makes no difference (20_memory.md section 5). -/
def Obligations.EncoderAndDecoderTurnsCommute : Prop :=
  ∀ s : State, runTurns [.encoder, .decoder] s = runTurns [.decoder, .encoder] s

/-- The machine never refuses, and faults only where a decoder's turn reads an entry that is present for the decode and has
never been written; no command, register read, capture write, encoder turn or reset can fail (60_exceptions.md section
1). -/
def Obligations.OnlyUnwrittenReadsStopTheMachine : Prop :=
  ∀ s : State, (∀ r, step s ≠ .refused r) ∧
    (∀ r, step s = .fault r → s.turns.head? = some .decoder ∧
      ∃ i, r = .unwrittenCapture i ∧ i < s.decLen.toNat ∧ nextCapRead s = some i ∧ capGet s.cap i = none)

/-- With both units IDLE all state holds until the HOST acts or reset is asserted: a unit's turn changes only the schedule,
and with no turn left nothing changes (60_exceptions.md section 7; the schedule is the model's, log 1 and log 2). -/
def Obligations.QuiescentStateHolds : Prop :=
  ∀ s : State, quiescent s →
    (s.turns = [] → step s = .next s) ∧
    (∀ ts, s.turns = .encoder :: ts ∨ s.turns = .decoder :: ts → step s = .next { s with turns := ts })

/-- A run that is over stays over, and its observation (EMITTED, the registers, CAP) stays as it is, however many steps follow
(60_exceptions.md sections 7 and 8). Over means quiescent, with the HOST's program finished: no word left, and no register
read, capture write or reset left in the schedule (log 1). -/
def Obligations.ObservationOfAnEndedRunIsFinal : Prop :=
  ∀ (s : State) (k : Nat), runOver s →
    ∃ t, runSteps k s = .next t ∧ runOver t ∧ observation t = observation s

/-- The configuration of this hardware: the nine protocol constants, the parameters with the band bounds derived from TOL_PCT,
and that it is legal; and the derived bounds of every TOL_PCT up to 33 are legal, those of 34 overlap (00_scope.md sections 4
and 5). PROTO_ID is OPEN, so nothing is said of it. -/
def Obligations.ConfigurationOfThisHardware : Prop :=
  (Config.hw.zeroDuration = 400 ∧ Config.hw.oneDuration = 800 ∧ Config.hw.headerDuration = 1600 ∧
    Config.hw.trailerGuard = 1000 ∧ Config.hw.carrierFreq = 38000 ∧ Config.hw.frameBits = 40 ∧
    Config.hw.seedDefault = 0xAE ∧ Config.hw.fixedMarker = 0xAA ∧ Config.hw.ckOffset = 0x0D) ∧
  (Config.hw.durW = 16 ∧ Config.hw.capDepth = 64 ∧ Config.hw.tolPct = 25 ∧
    Config.hw.zeroMin = 300 ∧ Config.hw.zeroMax = 500 ∧ Config.hw.oneMin = 600 ∧ Config.hw.oneMax = 1000 ∧
    Config.hw.hdrMin = 1200 ∧ Config.hw.hdrMax = 2000) ∧
  Config.hw.legal = true ∧
  (∀ (p : BitVec 8) (tol : Nat), tol ≤ 33 → ({ protoId := p, tolPct := tol } : Config).legal = true) ∧
  (∀ p : BitVec 8, ({ protoId := p, tolPct := 34 } : Config).bandsOrdered = false)
end

