-- ==== Sys2Proof/Laws/State.lean ====
section
/-! SUPPORT. What every named update of State leaves in every field: one lemma per field per update, so that no later
proof unfolds a record update. -/

namespace Sys2Proof.Machine

/-! ### emit -/

@[simp] theorem emit_encSt (s : State) (p : PulseSegment) : (emit s p).encSt = s.encSt := rfl
@[simp] theorem emit_encFrame (s : State) (p : PulseSegment) : (emit s p).encFrame = s.encFrame := rfl
@[simp] theorem emit_encIdx (s : State) (p : PulseSegment) : (emit s p).encIdx = s.encIdx := rfl
@[simp] theorem emit_decSt (s : State) (p : PulseSegment) : (emit s p).decSt = s.decSt := rfl
@[simp] theorem emit_decAcc (s : State) (p : PulseSegment) : (emit s p).decAcc = s.decAcc := rfl
@[simp] theorem emit_decIdx (s : State) (p : PulseSegment) : (emit s p).decIdx = s.decIdx := rfl
@[simp] theorem emit_decLen (s : State) (p : PulseSegment) : (emit s p).decLen = s.decLen := rfl
@[simp] theorem emit_decValue (s : State) (p : PulseSegment) : (emit s p).decValue = s.decValue := rfl
@[simp] theorem emit_decAddr (s : State) (p : PulseSegment) : (emit s p).decAddr = s.decAddr := rfl
@[simp] theorem emit_decBits (s : State) (p : PulseSegment) : (emit s p).decBits = s.decBits := rfl
@[simp] theorem emit_decProto (s : State) (p : PulseSegment) : (emit s p).decProto = s.decProto := rfl
@[simp] theorem emit_decSlots (s : State) (p : PulseSegment) : (emit s p).decSlots = s.decSlots := rfl
@[simp] theorem emit_ckRes (s : State) (p : PulseSegment) : (emit s p).ckRes = s.ckRes := rfl
@[simp] theorem emit_decDone (s : State) (p : PulseSegment) : (emit s p).decDone = s.decDone := rfl
@[simp] theorem emit_decOk (s : State) (p : PulseSegment) : (emit s p).decOk = s.decOk := rfl
@[simp] theorem emit_decErr (s : State) (p : PulseSegment) : (emit s p).decErr = s.decErr := rfl
@[simp] theorem emit_ckmm (s : State) (p : PulseSegment) : (emit s p).ckmm = s.ckmm := rfl
@[simp] theorem emit_cmdErr (s : State) (p : PulseSegment) : (emit s p).cmdErr = s.cmdErr := rfl
@[simp] theorem emit_cap (s : State) (p : PulseSegment) : (emit s p).cap = s.cap := rfl
@[simp] theorem emit_emitted (s : State) (p : PulseSegment) : (emit s p).emitted = s.emitted ++ [p] := rfl
@[simp] theorem emit_overwritten (s : State) (p : PulseSegment) : (emit s p).overwritten = s.overwritten := rfl
@[simp] theorem emit_freeCount (s : State) (p : PulseSegment) : (emit s p).freeCount = s.freeCount := rfl
@[simp] theorem emit_hostWords (s : State) (p : PulseSegment) : (emit s p).hostWords = s.hostWords := rfl
@[simp] theorem emit_reads (s : State) (p : PulseSegment) : (emit s p).reads = s.reads := rfl
@[simp] theorem emit_turns (s : State) (p : PulseSegment) : (emit s p).turns = s.turns := rfl

/-! ### acceptWord -/

@[simp] theorem acceptWord_encSt (s : State) : (acceptWord s).encSt = s.encSt := rfl
@[simp] theorem acceptWord_encFrame (s : State) : (acceptWord s).encFrame = s.encFrame := rfl
@[simp] theorem acceptWord_encIdx (s : State) : (acceptWord s).encIdx = s.encIdx := rfl
@[simp] theorem acceptWord_decSt (s : State) : (acceptWord s).decSt = s.decSt := rfl
@[simp] theorem acceptWord_decAcc (s : State) : (acceptWord s).decAcc = s.decAcc := rfl
@[simp] theorem acceptWord_decIdx (s : State) : (acceptWord s).decIdx = s.decIdx := rfl
@[simp] theorem acceptWord_decLen (s : State) : (acceptWord s).decLen = s.decLen := rfl
@[simp] theorem acceptWord_decValue (s : State) : (acceptWord s).decValue = s.decValue := rfl
@[simp] theorem acceptWord_decAddr (s : State) : (acceptWord s).decAddr = s.decAddr := rfl
@[simp] theorem acceptWord_decBits (s : State) : (acceptWord s).decBits = s.decBits := rfl
@[simp] theorem acceptWord_decProto (s : State) : (acceptWord s).decProto = s.decProto := rfl
@[simp] theorem acceptWord_decSlots (s : State) : (acceptWord s).decSlots = s.decSlots := rfl
@[simp] theorem acceptWord_ckRes (s : State) : (acceptWord s).ckRes = s.ckRes := rfl
@[simp] theorem acceptWord_decDone (s : State) : (acceptWord s).decDone = s.decDone := rfl
@[simp] theorem acceptWord_decOk (s : State) : (acceptWord s).decOk = s.decOk := rfl
@[simp] theorem acceptWord_decErr (s : State) : (acceptWord s).decErr = s.decErr := rfl
@[simp] theorem acceptWord_ckmm (s : State) : (acceptWord s).ckmm = s.ckmm := rfl
@[simp] theorem acceptWord_cmdErr (s : State) : (acceptWord s).cmdErr = s.cmdErr := rfl
@[simp] theorem acceptWord_cap (s : State) : (acceptWord s).cap = s.cap := rfl
@[simp] theorem acceptWord_emitted (s : State) : (acceptWord s).emitted = s.emitted := rfl
@[simp] theorem acceptWord_overwritten (s : State) : (acceptWord s).overwritten = s.overwritten := rfl
@[simp] theorem acceptWord_freeCount (s : State) : (acceptWord s).freeCount = s.freeCount := rfl
@[simp] theorem acceptWord_hostWords (s : State) : (acceptWord s).hostWords = s.hostWords.tail := rfl
@[simp] theorem acceptWord_reads (s : State) : (acceptWord s).reads = s.reads := rfl
@[simp] theorem acceptWord_turns (s : State) : (acceptWord s).turns = s.turns := rfl

/-! ### startEncode -/

@[simp] theorem startEncode_encSt (s : State) (f : Frame) : (startEncode s f).encSt = .hdr := rfl
@[simp] theorem startEncode_encFrame (s : State) (f : Frame) : (startEncode s f).encFrame = f := rfl
@[simp] theorem startEncode_encIdx (s : State) (f : Frame) : (startEncode s f).encIdx = 0 := rfl
@[simp] theorem startEncode_decSt (s : State) (f : Frame) : (startEncode s f).decSt = s.decSt := rfl
@[simp] theorem startEncode_decAcc (s : State) (f : Frame) : (startEncode s f).decAcc = s.decAcc := rfl
@[simp] theorem startEncode_decIdx (s : State) (f : Frame) : (startEncode s f).decIdx = s.decIdx := rfl
@[simp] theorem startEncode_decLen (s : State) (f : Frame) : (startEncode s f).decLen = s.decLen := rfl
@[simp] theorem startEncode_decValue (s : State) (f : Frame) : (startEncode s f).decValue = s.decValue := rfl
@[simp] theorem startEncode_decAddr (s : State) (f : Frame) : (startEncode s f).decAddr = s.decAddr := rfl
@[simp] theorem startEncode_decBits (s : State) (f : Frame) : (startEncode s f).decBits = s.decBits := rfl
@[simp] theorem startEncode_decProto (s : State) (f : Frame) : (startEncode s f).decProto = s.decProto := rfl
@[simp] theorem startEncode_decSlots (s : State) (f : Frame) : (startEncode s f).decSlots = s.decSlots := rfl
@[simp] theorem startEncode_ckRes (s : State) (f : Frame) : (startEncode s f).ckRes = s.ckRes := rfl
@[simp] theorem startEncode_decDone (s : State) (f : Frame) : (startEncode s f).decDone = s.decDone := rfl
@[simp] theorem startEncode_decOk (s : State) (f : Frame) : (startEncode s f).decOk = s.decOk := rfl
@[simp] theorem startEncode_decErr (s : State) (f : Frame) : (startEncode s f).decErr = s.decErr := rfl
@[simp] theorem startEncode_ckmm (s : State) (f : Frame) : (startEncode s f).ckmm = s.ckmm := rfl
@[simp] theorem startEncode_cmdErr (s : State) (f : Frame) : (startEncode s f).cmdErr = s.cmdErr := rfl
@[simp] theorem startEncode_cap (s : State) (f : Frame) : (startEncode s f).cap = s.cap := rfl
@[simp] theorem startEncode_emitted (s : State) (f : Frame) : (startEncode s f).emitted = s.emitted := rfl
@[simp] theorem startEncode_overwritten (s : State) (f : Frame) : (startEncode s f).overwritten = s.overwritten := rfl
@[simp] theorem startEncode_freeCount (s : State) (f : Frame) : (startEncode s f).freeCount = s.freeCount := rfl
@[simp] theorem startEncode_hostWords (s : State) (f : Frame) : (startEncode s f).hostWords = s.hostWords := rfl
@[simp] theorem startEncode_reads (s : State) (f : Frame) : (startEncode s f).reads = s.reads := rfl
@[simp] theorem startEncode_turns (s : State) (f : Frame) : (startEncode s f).turns = s.turns := rfl

/-! ### startDecode -/

@[simp] theorem startDecode_encSt (c : Config) (s : State) (n : BitVec 16) : (startDecode c s n).encSt = s.encSt := rfl
@[simp] theorem startDecode_encFrame (c : Config) (s : State) (n : BitVec 16) : (startDecode c s n).encFrame = s.encFrame := rfl
@[simp] theorem startDecode_encIdx (c : Config) (s : State) (n : BitVec 16) : (startDecode c s n).encIdx = s.encIdx := rfl
@[simp] theorem startDecode_decSt (c : Config) (s : State) (n : BitVec 16) : (startDecode c s n).decSt = .awaitHeader := rfl
@[simp] theorem startDecode_decAcc (c : Config) (s : State) (n : BitVec 16) : (startDecode c s n).decAcc = 0 := rfl
@[simp] theorem startDecode_decIdx (c : Config) (s : State) (n : BitVec 16) : (startDecode c s n).decIdx = 0 := rfl
@[simp] theorem startDecode_decLen (c : Config) (s : State) (n : BitVec 16) : (startDecode c s n).decLen = effectiveLen c n := rfl
@[simp] theorem startDecode_decValue (c : Config) (s : State) (n : BitVec 16) : (startDecode c s n).decValue = 0 := rfl
@[simp] theorem startDecode_decAddr (c : Config) (s : State) (n : BitVec 16) : (startDecode c s n).decAddr = 0 := rfl
@[simp] theorem startDecode_decBits (c : Config) (s : State) (n : BitVec 16) : (startDecode c s n).decBits = 0 := rfl
@[simp] theorem startDecode_decProto (c : Config) (s : State) (n : BitVec 16) : (startDecode c s n).decProto = 0 := rfl
@[simp] theorem startDecode_decSlots (c : Config) (s : State) (n : BitVec 16) : (startDecode c s n).decSlots = 0 := rfl
@[simp] theorem startDecode_ckRes (c : Config) (s : State) (n : BitVec 16) : (startDecode c s n).ckRes = s.ckRes := rfl
@[simp] theorem startDecode_decDone (c : Config) (s : State) (n : BitVec 16) : (startDecode c s n).decDone = false := rfl
@[simp] theorem startDecode_decOk (c : Config) (s : State) (n : BitVec 16) : (startDecode c s n).decOk = false := rfl
@[simp] theorem startDecode_decErr (c : Config) (s : State) (n : BitVec 16) : (startDecode c s n).decErr = .none := rfl
@[simp] theorem startDecode_ckmm (c : Config) (s : State) (n : BitVec 16) : (startDecode c s n).ckmm = false := rfl
@[simp] theorem startDecode_cmdErr (c : Config) (s : State) (n : BitVec 16) : (startDecode c s n).cmdErr = s.cmdErr := rfl
@[simp] theorem startDecode_cap (c : Config) (s : State) (n : BitVec 16) : (startDecode c s n).cap = s.cap := rfl
@[simp] theorem startDecode_emitted (c : Config) (s : State) (n : BitVec 16) : (startDecode c s n).emitted = s.emitted := rfl
@[simp] theorem startDecode_overwritten (c : Config) (s : State) (n : BitVec 16) : (startDecode c s n).overwritten = [] := rfl
@[simp] theorem startDecode_freeCount (c : Config) (s : State) (n : BitVec 16) : (startDecode c s n).freeCount = s.freeCount := rfl
@[simp] theorem startDecode_hostWords (c : Config) (s : State) (n : BitVec 16) : (startDecode c s n).hostWords = s.hostWords := rfl
@[simp] theorem startDecode_reads (c : Config) (s : State) (n : BitVec 16) : (startDecode c s n).reads = s.reads := rfl
@[simp] theorem startDecode_turns (c : Config) (s : State) (n : BitVec 16) : (startDecode c s n).turns = s.turns := rfl

/-! ### failDecode -/

@[simp] theorem failDecode_encSt (s : State) (code : DecErr) : (failDecode s code).encSt = s.encSt := rfl
@[simp] theorem failDecode_encFrame (s : State) (code : DecErr) : (failDecode s code).encFrame = s.encFrame := rfl
@[simp] theorem failDecode_encIdx (s : State) (code : DecErr) : (failDecode s code).encIdx = s.encIdx := rfl
@[simp] theorem failDecode_decSt (s : State) (code : DecErr) : (failDecode s code).decSt = .idle := rfl
@[simp] theorem failDecode_decAcc (s : State) (code : DecErr) : (failDecode s code).decAcc = s.decAcc := rfl
@[simp] theorem failDecode_decIdx (s : State) (code : DecErr) : (failDecode s code).decIdx = s.decIdx := rfl
@[simp] theorem failDecode_decLen (s : State) (code : DecErr) : (failDecode s code).decLen = s.decLen := rfl
@[simp] theorem failDecode_decValue (s : State) (code : DecErr) : (failDecode s code).decValue = 0 := rfl
@[simp] theorem failDecode_decAddr (s : State) (code : DecErr) : (failDecode s code).decAddr = 0 := rfl
@[simp] theorem failDecode_decBits (s : State) (code : DecErr) : (failDecode s code).decBits = 0 := rfl
@[simp] theorem failDecode_decProto (s : State) (code : DecErr) : (failDecode s code).decProto = 0 := rfl
@[simp] theorem failDecode_decSlots (s : State) (code : DecErr) : (failDecode s code).decSlots = s.decIdx := rfl
@[simp] theorem failDecode_ckRes (s : State) (code : DecErr) : (failDecode s code).ckRes = s.ckRes := rfl
@[simp] theorem failDecode_decDone (s : State) (code : DecErr) : (failDecode s code).decDone = true := rfl
@[simp] theorem failDecode_decOk (s : State) (code : DecErr) : (failDecode s code).decOk = false := rfl
@[simp] theorem failDecode_decErr (s : State) (code : DecErr) : (failDecode s code).decErr = code := rfl
@[simp] theorem failDecode_ckmm (s : State) (code : DecErr) : (failDecode s code).ckmm = false := rfl
@[simp] theorem failDecode_cmdErr (s : State) (code : DecErr) : (failDecode s code).cmdErr = s.cmdErr := rfl
@[simp] theorem failDecode_cap (s : State) (code : DecErr) : (failDecode s code).cap = s.cap := rfl
@[simp] theorem failDecode_emitted (s : State) (code : DecErr) : (failDecode s code).emitted = s.emitted := rfl
@[simp] theorem failDecode_overwritten (s : State) (code : DecErr) : (failDecode s code).overwritten = [] := rfl
@[simp] theorem failDecode_freeCount (s : State) (code : DecErr) : (failDecode s code).freeCount = s.freeCount := rfl
@[simp] theorem failDecode_hostWords (s : State) (code : DecErr) : (failDecode s code).hostWords = s.hostWords := rfl
@[simp] theorem failDecode_reads (s : State) (code : DecErr) : (failDecode s code).reads = s.reads := rfl
@[simp] theorem failDecode_turns (s : State) (code : DecErr) : (failDecode s code).turns = s.turns := rfl

/-! ### finishDecode -/

@[simp] theorem finishDecode_encSt (c : Config) (s : State) : (finishDecode c s).encSt = s.encSt := rfl
@[simp] theorem finishDecode_encFrame (c : Config) (s : State) : (finishDecode c s).encFrame = s.encFrame := rfl
@[simp] theorem finishDecode_encIdx (c : Config) (s : State) : (finishDecode c s).encIdx = s.encIdx := rfl
@[simp] theorem finishDecode_decSt (c : Config) (s : State) : (finishDecode c s).decSt = .idle := rfl
@[simp] theorem finishDecode_decAcc (c : Config) (s : State) : (finishDecode c s).decAcc = s.decAcc := rfl
@[simp] theorem finishDecode_decIdx (c : Config) (s : State) : (finishDecode c s).decIdx = s.decIdx := rfl
@[simp] theorem finishDecode_decLen (c : Config) (s : State) : (finishDecode c s).decLen = s.decLen := rfl
@[simp] theorem finishDecode_decValue (c : Config) (s : State) : (finishDecode c s).decValue = frameValue s.decAcc := rfl
@[simp] theorem finishDecode_decAddr (c : Config) (s : State) : (finishDecode c s).decAddr = frameAddr s.decAcc := rfl
@[simp] theorem finishDecode_decBits (c : Config) (s : State) : (finishDecode c s).decBits = BitVec.ofNat 8 c.frameBits := rfl
@[simp] theorem finishDecode_decProto (c : Config) (s : State) : (finishDecode c s).decProto = c.protoId := rfl
@[simp] theorem finishDecode_decSlots (c : Config) (s : State) : (finishDecode c s).decSlots = BitVec.ofNat 6 c.frameBits := rfl
@[simp] theorem finishDecode_ckRes (c : Config) (s : State) : (finishDecode c s).ckRes = s.ckRes := rfl
@[simp] theorem finishDecode_decDone (c : Config) (s : State) : (finishDecode c s).decDone = true := rfl
@[simp] theorem finishDecode_decOk (c : Config) (s : State) : (finishDecode c s).decOk = true := rfl
@[simp] theorem finishDecode_decErr (c : Config) (s : State) : (finishDecode c s).decErr = .none := rfl
@[simp] theorem finishDecode_ckmm (c : Config) (s : State) : (finishDecode c s).ckmm = checksumMismatch c s.decAcc := rfl
@[simp] theorem finishDecode_cmdErr (c : Config) (s : State) : (finishDecode c s).cmdErr = s.cmdErr := rfl
@[simp] theorem finishDecode_cap (c : Config) (s : State) : (finishDecode c s).cap = s.cap := rfl
@[simp] theorem finishDecode_emitted (c : Config) (s : State) : (finishDecode c s).emitted = s.emitted := rfl
@[simp] theorem finishDecode_overwritten (c : Config) (s : State) : (finishDecode c s).overwritten = [] := rfl
@[simp] theorem finishDecode_freeCount (c : Config) (s : State) : (finishDecode c s).freeCount = s.freeCount := rfl
@[simp] theorem finishDecode_hostWords (c : Config) (s : State) : (finishDecode c s).hostWords = s.hostWords := rfl
@[simp] theorem finishDecode_reads (c : Config) (s : State) : (finishDecode c s).reads = s.reads := rfl
@[simp] theorem finishDecode_turns (c : Config) (s : State) : (finishDecode c s).turns = s.turns := rfl

/-! ### commandError -/

@[simp] theorem commandError_encSt (s : State) : (commandError s).encSt = s.encSt := rfl
@[simp] theorem commandError_encFrame (s : State) : (commandError s).encFrame = s.encFrame := rfl
@[simp] theorem commandError_encIdx (s : State) : (commandError s).encIdx = s.encIdx := rfl
@[simp] theorem commandError_decSt (s : State) : (commandError s).decSt = s.decSt := rfl
@[simp] theorem commandError_decAcc (s : State) : (commandError s).decAcc = s.decAcc := rfl
@[simp] theorem commandError_decIdx (s : State) : (commandError s).decIdx = s.decIdx := rfl
@[simp] theorem commandError_decLen (s : State) : (commandError s).decLen = s.decLen := rfl
@[simp] theorem commandError_decValue (s : State) : (commandError s).decValue = s.decValue := rfl
@[simp] theorem commandError_decAddr (s : State) : (commandError s).decAddr = s.decAddr := rfl
@[simp] theorem commandError_decBits (s : State) : (commandError s).decBits = s.decBits := rfl
@[simp] theorem commandError_decProto (s : State) : (commandError s).decProto = s.decProto := rfl
@[simp] theorem commandError_decSlots (s : State) : (commandError s).decSlots = s.decSlots := rfl
@[simp] theorem commandError_ckRes (s : State) : (commandError s).ckRes = s.ckRes := rfl
@[simp] theorem commandError_decDone (s : State) : (commandError s).decDone = s.decDone := rfl
@[simp] theorem commandError_decOk (s : State) : (commandError s).decOk = s.decOk := rfl
@[simp] theorem commandError_decErr (s : State) : (commandError s).decErr = s.decErr := rfl
@[simp] theorem commandError_ckmm (s : State) : (commandError s).ckmm = s.ckmm := rfl
@[simp] theorem commandError_cmdErr (s : State) : (commandError s).cmdErr = true := rfl
@[simp] theorem commandError_cap (s : State) : (commandError s).cap = s.cap := rfl
@[simp] theorem commandError_emitted (s : State) : (commandError s).emitted = s.emitted := rfl
@[simp] theorem commandError_overwritten (s : State) : (commandError s).overwritten = s.overwritten := rfl
@[simp] theorem commandError_freeCount (s : State) : (commandError s).freeCount = s.freeCount := rfl
@[simp] theorem commandError_hostWords (s : State) : (commandError s).hostWords = s.hostWords := rfl
@[simp] theorem commandError_reads (s : State) : (commandError s).reads = s.reads := rfl
@[simp] theorem commandError_turns (s : State) : (commandError s).turns = s.turns := rfl

/-! ### setCkRes -/

@[simp] theorem setCkRes_encSt (s : State) (v : BitVec 4) : (setCkRes s v).encSt = s.encSt := rfl
@[simp] theorem setCkRes_encFrame (s : State) (v : BitVec 4) : (setCkRes s v).encFrame = s.encFrame := rfl
@[simp] theorem setCkRes_encIdx (s : State) (v : BitVec 4) : (setCkRes s v).encIdx = s.encIdx := rfl
@[simp] theorem setCkRes_decSt (s : State) (v : BitVec 4) : (setCkRes s v).decSt = s.decSt := rfl
@[simp] theorem setCkRes_decAcc (s : State) (v : BitVec 4) : (setCkRes s v).decAcc = s.decAcc := rfl
@[simp] theorem setCkRes_decIdx (s : State) (v : BitVec 4) : (setCkRes s v).decIdx = s.decIdx := rfl
@[simp] theorem setCkRes_decLen (s : State) (v : BitVec 4) : (setCkRes s v).decLen = s.decLen := rfl
@[simp] theorem setCkRes_decValue (s : State) (v : BitVec 4) : (setCkRes s v).decValue = s.decValue := rfl
@[simp] theorem setCkRes_decAddr (s : State) (v : BitVec 4) : (setCkRes s v).decAddr = s.decAddr := rfl
@[simp] theorem setCkRes_decBits (s : State) (v : BitVec 4) : (setCkRes s v).decBits = s.decBits := rfl
@[simp] theorem setCkRes_decProto (s : State) (v : BitVec 4) : (setCkRes s v).decProto = s.decProto := rfl
@[simp] theorem setCkRes_decSlots (s : State) (v : BitVec 4) : (setCkRes s v).decSlots = s.decSlots := rfl
@[simp] theorem setCkRes_ckRes (s : State) (v : BitVec 4) : (setCkRes s v).ckRes = v := rfl
@[simp] theorem setCkRes_decDone (s : State) (v : BitVec 4) : (setCkRes s v).decDone = s.decDone := rfl
@[simp] theorem setCkRes_decOk (s : State) (v : BitVec 4) : (setCkRes s v).decOk = s.decOk := rfl
@[simp] theorem setCkRes_decErr (s : State) (v : BitVec 4) : (setCkRes s v).decErr = s.decErr := rfl
@[simp] theorem setCkRes_ckmm (s : State) (v : BitVec 4) : (setCkRes s v).ckmm = s.ckmm := rfl
@[simp] theorem setCkRes_cmdErr (s : State) (v : BitVec 4) : (setCkRes s v).cmdErr = s.cmdErr := rfl
@[simp] theorem setCkRes_cap (s : State) (v : BitVec 4) : (setCkRes s v).cap = s.cap := rfl
@[simp] theorem setCkRes_emitted (s : State) (v : BitVec 4) : (setCkRes s v).emitted = s.emitted := rfl
@[simp] theorem setCkRes_overwritten (s : State) (v : BitVec 4) : (setCkRes s v).overwritten = s.overwritten := rfl
@[simp] theorem setCkRes_freeCount (s : State) (v : BitVec 4) : (setCkRes s v).freeCount = s.freeCount := rfl
@[simp] theorem setCkRes_hostWords (s : State) (v : BitVec 4) : (setCkRes s v).hostWords = s.hostWords := rfl
@[simp] theorem setCkRes_reads (s : State) (v : BitVec 4) : (setCkRes s v).reads = s.reads := rfl
@[simp] theorem setCkRes_turns (s : State) (v : BitVec 4) : (setCkRes s v).turns = s.turns := rfl

/-! ### logRead -/

@[simp] theorem logRead_encSt (s : State) (a : BitVec 4) : (logRead s a).encSt = s.encSt := rfl
@[simp] theorem logRead_encFrame (s : State) (a : BitVec 4) : (logRead s a).encFrame = s.encFrame := rfl
@[simp] theorem logRead_encIdx (s : State) (a : BitVec 4) : (logRead s a).encIdx = s.encIdx := rfl
@[simp] theorem logRead_decSt (s : State) (a : BitVec 4) : (logRead s a).decSt = s.decSt := rfl
@[simp] theorem logRead_decAcc (s : State) (a : BitVec 4) : (logRead s a).decAcc = s.decAcc := rfl
@[simp] theorem logRead_decIdx (s : State) (a : BitVec 4) : (logRead s a).decIdx = s.decIdx := rfl
@[simp] theorem logRead_decLen (s : State) (a : BitVec 4) : (logRead s a).decLen = s.decLen := rfl
@[simp] theorem logRead_decValue (s : State) (a : BitVec 4) : (logRead s a).decValue = s.decValue := rfl
@[simp] theorem logRead_decAddr (s : State) (a : BitVec 4) : (logRead s a).decAddr = s.decAddr := rfl
@[simp] theorem logRead_decBits (s : State) (a : BitVec 4) : (logRead s a).decBits = s.decBits := rfl
@[simp] theorem logRead_decProto (s : State) (a : BitVec 4) : (logRead s a).decProto = s.decProto := rfl
@[simp] theorem logRead_decSlots (s : State) (a : BitVec 4) : (logRead s a).decSlots = s.decSlots := rfl
@[simp] theorem logRead_ckRes (s : State) (a : BitVec 4) : (logRead s a).ckRes = s.ckRes := rfl
@[simp] theorem logRead_decDone (s : State) (a : BitVec 4) : (logRead s a).decDone = s.decDone := rfl
@[simp] theorem logRead_decOk (s : State) (a : BitVec 4) : (logRead s a).decOk = s.decOk := rfl
@[simp] theorem logRead_decErr (s : State) (a : BitVec 4) : (logRead s a).decErr = s.decErr := rfl
@[simp] theorem logRead_ckmm (s : State) (a : BitVec 4) : (logRead s a).ckmm = s.ckmm := rfl
@[simp] theorem logRead_cmdErr (s : State) (a : BitVec 4) : (logRead s a).cmdErr = s.cmdErr := rfl
@[simp] theorem logRead_cap (s : State) (a : BitVec 4) : (logRead s a).cap = s.cap := rfl
@[simp] theorem logRead_emitted (s : State) (a : BitVec 4) : (logRead s a).emitted = s.emitted := rfl
@[simp] theorem logRead_overwritten (s : State) (a : BitVec 4) : (logRead s a).overwritten = s.overwritten := rfl
@[simp] theorem logRead_freeCount (s : State) (a : BitVec 4) : (logRead s a).freeCount = s.freeCount := rfl
@[simp] theorem logRead_hostWords (s : State) (a : BitVec 4) : (logRead s a).hostWords = s.hostWords := rfl
@[simp] theorem logRead_reads (s : State) (a : BitVec 4) : (logRead s a).reads = s.reads ++ [(a, regAt s a)] := rfl
@[simp] theorem logRead_turns (s : State) (a : BitVec 4) : (logRead s a).turns = s.turns := rfl

/-! ### resetCore -/

@[simp] theorem resetCore_encSt (s : State) : (resetCore s).encSt = State.reset.encSt := rfl
@[simp] theorem resetCore_encFrame (s : State) : (resetCore s).encFrame = State.reset.encFrame := rfl
@[simp] theorem resetCore_encIdx (s : State) : (resetCore s).encIdx = State.reset.encIdx := rfl
@[simp] theorem resetCore_decSt (s : State) : (resetCore s).decSt = State.reset.decSt := rfl
@[simp] theorem resetCore_decAcc (s : State) : (resetCore s).decAcc = State.reset.decAcc := rfl
@[simp] theorem resetCore_decIdx (s : State) : (resetCore s).decIdx = State.reset.decIdx := rfl
@[simp] theorem resetCore_decLen (s : State) : (resetCore s).decLen = State.reset.decLen := rfl
@[simp] theorem resetCore_decValue (s : State) : (resetCore s).decValue = State.reset.decValue := rfl
@[simp] theorem resetCore_decAddr (s : State) : (resetCore s).decAddr = State.reset.decAddr := rfl
@[simp] theorem resetCore_decBits (s : State) : (resetCore s).decBits = State.reset.decBits := rfl
@[simp] theorem resetCore_decProto (s : State) : (resetCore s).decProto = State.reset.decProto := rfl
@[simp] theorem resetCore_decSlots (s : State) : (resetCore s).decSlots = State.reset.decSlots := rfl
@[simp] theorem resetCore_ckRes (s : State) : (resetCore s).ckRes = State.reset.ckRes := rfl
@[simp] theorem resetCore_decDone (s : State) : (resetCore s).decDone = State.reset.decDone := rfl
@[simp] theorem resetCore_decOk (s : State) : (resetCore s).decOk = State.reset.decOk := rfl
@[simp] theorem resetCore_decErr (s : State) : (resetCore s).decErr = State.reset.decErr := rfl
@[simp] theorem resetCore_ckmm (s : State) : (resetCore s).ckmm = State.reset.ckmm := rfl
@[simp] theorem resetCore_cmdErr (s : State) : (resetCore s).cmdErr = State.reset.cmdErr := rfl
@[simp] theorem resetCore_cap (s : State) : (resetCore s).cap = s.cap := rfl
@[simp] theorem resetCore_emitted (s : State) : (resetCore s).emitted = s.emitted := rfl
@[simp] theorem resetCore_overwritten (s : State) : (resetCore s).overwritten = State.reset.overwritten := rfl
@[simp] theorem resetCore_freeCount (s : State) : (resetCore s).freeCount = s.freeCount := rfl
@[simp] theorem resetCore_hostWords (s : State) : (resetCore s).hostWords = s.hostWords := rfl
@[simp] theorem resetCore_reads (s : State) : (resetCore s).reads = s.reads := rfl
@[simp] theorem resetCore_turns (s : State) : (resetCore s).turns = s.turns := rfl

/-! ### endTurn -/

@[simp] theorem endTurn_encSt (s : State) : (endTurn s).encSt = s.encSt := rfl
@[simp] theorem endTurn_encFrame (s : State) : (endTurn s).encFrame = s.encFrame := rfl
@[simp] theorem endTurn_encIdx (s : State) : (endTurn s).encIdx = s.encIdx := rfl
@[simp] theorem endTurn_decSt (s : State) : (endTurn s).decSt = s.decSt := rfl
@[simp] theorem endTurn_decAcc (s : State) : (endTurn s).decAcc = s.decAcc := rfl
@[simp] theorem endTurn_decIdx (s : State) : (endTurn s).decIdx = s.decIdx := rfl
@[simp] theorem endTurn_decLen (s : State) : (endTurn s).decLen = s.decLen := rfl
@[simp] theorem endTurn_decValue (s : State) : (endTurn s).decValue = s.decValue := rfl
@[simp] theorem endTurn_decAddr (s : State) : (endTurn s).decAddr = s.decAddr := rfl
@[simp] theorem endTurn_decBits (s : State) : (endTurn s).decBits = s.decBits := rfl
@[simp] theorem endTurn_decProto (s : State) : (endTurn s).decProto = s.decProto := rfl
@[simp] theorem endTurn_decSlots (s : State) : (endTurn s).decSlots = s.decSlots := rfl
@[simp] theorem endTurn_ckRes (s : State) : (endTurn s).ckRes = s.ckRes := rfl
@[simp] theorem endTurn_decDone (s : State) : (endTurn s).decDone = s.decDone := rfl
@[simp] theorem endTurn_decOk (s : State) : (endTurn s).decOk = s.decOk := rfl
@[simp] theorem endTurn_decErr (s : State) : (endTurn s).decErr = s.decErr := rfl
@[simp] theorem endTurn_ckmm (s : State) : (endTurn s).ckmm = s.ckmm := rfl
@[simp] theorem endTurn_cmdErr (s : State) : (endTurn s).cmdErr = s.cmdErr := rfl
@[simp] theorem endTurn_cap (s : State) : (endTurn s).cap = s.cap := rfl
@[simp] theorem endTurn_emitted (s : State) : (endTurn s).emitted = s.emitted := rfl
@[simp] theorem endTurn_overwritten (s : State) : (endTurn s).overwritten = s.overwritten := rfl
@[simp] theorem endTurn_freeCount (s : State) : (endTurn s).freeCount = s.freeCount := rfl
@[simp] theorem endTurn_hostWords (s : State) : (endTurn s).hostWords = s.hostWords := rfl
@[simp] theorem endTurn_reads (s : State) : (endTurn s).reads = s.reads := rfl
@[simp] theorem endTurn_turns (s : State) : (endTurn s).turns = s.turns.tail := rfl

/-! ### withTurns -/

@[simp] theorem withTurns_encSt (s : State) (ts : List Turn) : (withTurns s ts).encSt = s.encSt := rfl
@[simp] theorem withTurns_encFrame (s : State) (ts : List Turn) : (withTurns s ts).encFrame = s.encFrame := rfl
@[simp] theorem withTurns_encIdx (s : State) (ts : List Turn) : (withTurns s ts).encIdx = s.encIdx := rfl
@[simp] theorem withTurns_decSt (s : State) (ts : List Turn) : (withTurns s ts).decSt = s.decSt := rfl
@[simp] theorem withTurns_decAcc (s : State) (ts : List Turn) : (withTurns s ts).decAcc = s.decAcc := rfl
@[simp] theorem withTurns_decIdx (s : State) (ts : List Turn) : (withTurns s ts).decIdx = s.decIdx := rfl
@[simp] theorem withTurns_decLen (s : State) (ts : List Turn) : (withTurns s ts).decLen = s.decLen := rfl
@[simp] theorem withTurns_decValue (s : State) (ts : List Turn) : (withTurns s ts).decValue = s.decValue := rfl
@[simp] theorem withTurns_decAddr (s : State) (ts : List Turn) : (withTurns s ts).decAddr = s.decAddr := rfl
@[simp] theorem withTurns_decBits (s : State) (ts : List Turn) : (withTurns s ts).decBits = s.decBits := rfl
@[simp] theorem withTurns_decProto (s : State) (ts : List Turn) : (withTurns s ts).decProto = s.decProto := rfl
@[simp] theorem withTurns_decSlots (s : State) (ts : List Turn) : (withTurns s ts).decSlots = s.decSlots := rfl
@[simp] theorem withTurns_ckRes (s : State) (ts : List Turn) : (withTurns s ts).ckRes = s.ckRes := rfl
@[simp] theorem withTurns_decDone (s : State) (ts : List Turn) : (withTurns s ts).decDone = s.decDone := rfl
@[simp] theorem withTurns_decOk (s : State) (ts : List Turn) : (withTurns s ts).decOk = s.decOk := rfl
@[simp] theorem withTurns_decErr (s : State) (ts : List Turn) : (withTurns s ts).decErr = s.decErr := rfl
@[simp] theorem withTurns_ckmm (s : State) (ts : List Turn) : (withTurns s ts).ckmm = s.ckmm := rfl
@[simp] theorem withTurns_cmdErr (s : State) (ts : List Turn) : (withTurns s ts).cmdErr = s.cmdErr := rfl
@[simp] theorem withTurns_cap (s : State) (ts : List Turn) : (withTurns s ts).cap = s.cap := rfl
@[simp] theorem withTurns_emitted (s : State) (ts : List Turn) : (withTurns s ts).emitted = s.emitted := rfl
@[simp] theorem withTurns_overwritten (s : State) (ts : List Turn) : (withTurns s ts).overwritten = s.overwritten := rfl
@[simp] theorem withTurns_freeCount (s : State) (ts : List Turn) : (withTurns s ts).freeCount = s.freeCount := rfl
@[simp] theorem withTurns_hostWords (s : State) (ts : List Turn) : (withTurns s ts).hostWords = s.hostWords := rfl
@[simp] theorem withTurns_reads (s : State) (ts : List Turn) : (withTurns s ts).reads = s.reads := rfl
@[simp] theorem withTurns_turns (s : State) (ts : List Turn) : (withTurns s ts).turns = ts := rfl

/-! ### presentNext -/

@[simp] theorem presentNext_encSt (s : State) (w : CmdWord) : (presentNext s w).encSt = s.encSt := rfl
@[simp] theorem presentNext_encFrame (s : State) (w : CmdWord) : (presentNext s w).encFrame = s.encFrame := rfl
@[simp] theorem presentNext_encIdx (s : State) (w : CmdWord) : (presentNext s w).encIdx = s.encIdx := rfl
@[simp] theorem presentNext_decSt (s : State) (w : CmdWord) : (presentNext s w).decSt = s.decSt := rfl
@[simp] theorem presentNext_decAcc (s : State) (w : CmdWord) : (presentNext s w).decAcc = s.decAcc := rfl
@[simp] theorem presentNext_decIdx (s : State) (w : CmdWord) : (presentNext s w).decIdx = s.decIdx := rfl
@[simp] theorem presentNext_decLen (s : State) (w : CmdWord) : (presentNext s w).decLen = s.decLen := rfl
@[simp] theorem presentNext_decValue (s : State) (w : CmdWord) : (presentNext s w).decValue = s.decValue := rfl
@[simp] theorem presentNext_decAddr (s : State) (w : CmdWord) : (presentNext s w).decAddr = s.decAddr := rfl
@[simp] theorem presentNext_decBits (s : State) (w : CmdWord) : (presentNext s w).decBits = s.decBits := rfl
@[simp] theorem presentNext_decProto (s : State) (w : CmdWord) : (presentNext s w).decProto = s.decProto := rfl
@[simp] theorem presentNext_decSlots (s : State) (w : CmdWord) : (presentNext s w).decSlots = s.decSlots := rfl
@[simp] theorem presentNext_ckRes (s : State) (w : CmdWord) : (presentNext s w).ckRes = s.ckRes := rfl
@[simp] theorem presentNext_decDone (s : State) (w : CmdWord) : (presentNext s w).decDone = s.decDone := rfl
@[simp] theorem presentNext_decOk (s : State) (w : CmdWord) : (presentNext s w).decOk = s.decOk := rfl
@[simp] theorem presentNext_decErr (s : State) (w : CmdWord) : (presentNext s w).decErr = s.decErr := rfl
@[simp] theorem presentNext_ckmm (s : State) (w : CmdWord) : (presentNext s w).ckmm = s.ckmm := rfl
@[simp] theorem presentNext_cmdErr (s : State) (w : CmdWord) : (presentNext s w).cmdErr = s.cmdErr := rfl
@[simp] theorem presentNext_cap (s : State) (w : CmdWord) : (presentNext s w).cap = s.cap := rfl
@[simp] theorem presentNext_emitted (s : State) (w : CmdWord) : (presentNext s w).emitted = s.emitted := rfl
@[simp] theorem presentNext_overwritten (s : State) (w : CmdWord) : (presentNext s w).overwritten = s.overwritten := rfl
@[simp] theorem presentNext_freeCount (s : State) (w : CmdWord) : (presentNext s w).freeCount = s.freeCount := rfl
@[simp] theorem presentNext_hostWords (s : State) (w : CmdWord) : (presentNext s w).hostWords = w :: s.hostWords := rfl
@[simp] theorem presentNext_reads (s : State) (w : CmdWord) : (presentNext s w).reads = s.reads := rfl
@[simp] theorem presentNext_turns (s : State) (w : CmdWord) : (presentNext s w).turns = .present :: s.turns := rfl

end Sys2Proof.Machine
end

