-- ==== Sys2Proof/Laws/Capture.lean ====
section
/-! SUPPORT. The capture buffer: read after write, the canonical form, and everything CapRead and CapWrite can do. -/

namespace Sys2Proof.Machine

theorem capGet_capPut (m : Memory) (i j : Nat) (p : PulseSegment) :
    capGet (capPut m i p) j = if j = i then some p else capGet m j := by
  induction m with
  | nil => simp [capPut, capGet]
  | cons e m ih =>
    obtain ⟨k, q⟩ := e
    unfold capPut
    split
    · rfl
    · split
      · next h => subst h; by_cases hj : j = i <;> simp [capGet, hj]
      · next h =>
        by_cases hjk : j = k
        · subst hjk; simpa [capGet] using fun e : j = i => absurd e.symm h
        · simp [capGet, hjk, ih]

theorem capPut_index_mem {m : Memory} {i : Nat} {p : PulseSegment} {e : Nat × PulseSegment}
    (h : e ∈ capPut m i p) : e = (i, p) ∨ e ∈ m := by
  induction m with
  | nil => simpa [capPut] using h
  | cons d m ih =>
    obtain ⟨k, q⟩ := d
    unfold capPut at h
    split at h
    · simpa using h
    · split at h
      · rcases List.mem_cons.mp h with h | h <;> simp [h]
      · rcases List.mem_cons.mp h with h | h
        · simp [h]
        · rcases ih h with h | h <;> simp [h]

/-- What an entry reads as stands in the list. -/
theorem mem_of_capGet {m : Memory} {i : Nat} {p : PulseSegment} (h : capGet m i = some p) : (i, p) ∈ m := by
  induction m with
  | nil => cases h
  | cons e m ih =>
    obtain ⟨k, q⟩ := e
    simp only [capGet] at h
    split at h
    · next hk => subst hk; cases h; exact List.mem_cons_self
    · exact List.mem_cons_of_mem _ (ih h)

/-- A capture write keeps the canonical form. -/
theorem capPut_wf {m : Memory} (h : m.wf) (i : Nat) (p : PulseSegment) : (capPut m i p).wf := by
  induction m with
  | nil => simp [capPut, Memory.wf]
  | cons e m ih =>
    obtain ⟨k, q⟩ := e
    obtain ⟨hk, hm⟩ := List.pairwise_cons.mp h
    unfold capPut
    split
    · next hik =>
      refine List.pairwise_cons.mpr ⟨fun a ha => ?_, h⟩
      rcases List.mem_cons.mp ha with rfl | ha
      · exact hik
      · exact hik.trans (hk a ha)
    · split
      · next hik => subst hik; exact List.pairwise_cons.mpr ⟨hk, hm⟩
      · next h₁ h₂ =>
        refine List.pairwise_cons.mpr ⟨fun a ha => ?_, ih hm⟩
        rcases capPut_index_mem ha with rfl | ha
        · exact Nat.lt_of_le_of_ne (Nat.le_of_not_lt h₁) (fun e => h₂ e.symm)
        · exact hk a ha

/-- The capture buffer at power-on is canonical. -/
theorem reset_cap_wf : State.reset.cap.wf := List.Pairwise.nil

theorem oldValues_of_overwritten_nil {s : State} (h : s.overwritten = []) (i : Nat) : oldValues s i = [] := by
  simp [oldValues, h]

/-- CapRead of an entry no write of the running decode touched: the entry as it stands, the state unchanged. -/
theorem capRead_eq_of_no_race {c : Config} {s : State} {i : Nat} (h : oldValues s i = []) :
    capRead c s i = (capGet s.cap i).map (fun p => (p, s)) := by
  simp [capRead, h]

/-- CapRead of an entry the running decode's race touches: always a value, one free value drawn. -/
theorem capRead_eq_of_race {c : Config} {s : State} {i : Nat} (h : oldValues s i ≠ []) :
    capRead c s i = some (racePick c s i, { s with freeCount := s.freeCount + 1 }) := by
  simp [capRead, h]

theorem racePick_spec (c : Config) (s : State) (i : Nat) :
    some (racePick c s i) ∈ raceCandidates s i ∨ none ∈ raceCandidates s i := by
  have hpos : 0 < (raceCandidates s i).length := by simp [raceCandidates]
  have hk := Nat.mod_lt (Config.raceChoice s.freeCount) hpos
  have hmem : (raceCandidates s i).getD (Config.raceChoice s.freeCount % (raceCandidates s i).length) none
      ∈ raceCandidates s i := by
    simp [List.getD_eq_getElem?_getD, List.getElem?_eq_getElem hk]
  simp only [racePick]
  split
  · next h => exact .inl (h ▸ hmem)
  · next h => exact .inr (h ▸ hmem)

/-- Everything CapRead can do. -/
theorem capRead_cases {c : Config} {s t : State} {i : Nat} {p : PulseSegment} (h : capRead c s i = some (p, t)) :
    (oldValues s i = [] ∧ capGet s.cap i = some p ∧ t = s) ∨
    (oldValues s i ≠ [] ∧ p = racePick c s i ∧ t = { s with freeCount := s.freeCount + 1 }) := by
  by_cases ho : oldValues s i = []
  · rw [capRead_eq_of_no_race ho] at h
    obtain ⟨q, hq, e⟩ := Option.map_eq_some_iff.mp h
    cases e
    exact .inl ⟨ho, hq, rfl⟩
  · rw [capRead_eq_of_race ho] at h
    cases h
    exact .inr ⟨ho, rfl, rfl⟩

/-- CapRead answers nothing exactly for an entry never written and not written by the running decode's race. -/
theorem capRead_eq_none_iff {c : Config} {s : State} {i : Nat} :
    capRead c s i = none ↔ oldValues s i = [] ∧ capGet s.cap i = none := by
  by_cases ho : oldValues s i = []
  · simp [capRead_eq_of_no_race ho, ho]
  · simp [capRead_eq_of_race ho, ho]

/-- CapRead changes at most the count of free values. -/
theorem capRead_state {c : Config} {s t : State} {i : Nat} {p : PulseSegment} (h : capRead c s i = some (p, t)) :
    t = { s with freeCount := t.freeCount } := by
  rcases capRead_cases h with ⟨-, -, rfl⟩ | ⟨-, -, rfl⟩ <;> rfl

/-- CapWrite changes at most the capture buffer and the record of the race. -/
theorem capWrite_state (c : Config) (s : State) (i : BitVec 16) (p : PulseSegment) :
    capWrite c s i p =
      { s with cap := (capWrite c s i p).cap, overwritten := (capWrite c s i p).overwritten } := by
  unfold capWrite
  split <;> rfl

theorem capWrite_of_ge {c : Config} {s : State} {i : BitVec 16} {p : PulseSegment} (h : c.capDepth ≤ i.toNat) :
    capWrite c s i p = s := by
  simp [capWrite, Nat.not_lt.mpr h]

theorem capWrite_cap_of_lt {c : Config} {s : State} {i : BitVec 16} {p : PulseSegment} (h : i.toNat < c.capDepth) :
    (capWrite c s i p).cap = capPut s.cap i.toNat p := by
  simp [capWrite, h]

theorem capWrite_overwritten_of_lt {c : Config} {s : State} {i : BitVec 16} {p : PulseSegment}
    (h : i.toNat < c.capDepth) :
    (capWrite c s i p).overwritten =
      if decBusy s then s.overwritten ++ [(i.toNat, capGet s.cap i.toNat)] else s.overwritten := by
  simp [capWrite, h]

/-- CapWrite keeps the canonical form. -/
theorem capWrite_wf {c : Config} {s : State} (h : s.cap.wf) (i : BitVec 16) (p : PulseSegment) :
    (capWrite c s i p).cap.wf := by
  unfold capWrite
  split
  · exact capPut_wf h _ _
  · exact h

end Sys2Proof.Machine
end

