-- ==== Sys2Proof/Laws/Decode.lean ====
section
/-! SUPPORT. The word of a command as a number, and the fields of a word as numbers. -/

namespace Sys2Proof

theorem toNat_encode_nop : (encode .nop).toNat = 0 := rfl

theorem toNat_encode_encTw (t w : BitVec 8) :
    (encode (.encTw t w)).toNat = 1152921504606846976 + (t.toNat * 256 + w.toNat) := by
  simp [encode, Nat.shiftLeft_eq]
  omega

theorem toNat_encode_encRaw (a : BitVec 8) (v : BitVec 32) :
    (encode (.encRaw a v)).toNat = 2305843009213693952 + (a.toNat * 4294967296 + v.toNat) := by
  simp [encode, Nat.shiftLeft_eq]
  omega

theorem toNat_encode_dec (n : BitVec 16) : (encode (.dec n)).toNat = 3458764513820540928 + n.toNat := by
  simp [encode]
  omega

theorem toNat_encode_cksum (t w : BitVec 8) :
    (encode (.cksum t w)).toNat = 4611686018427387904 + (t.toNat * 256 + w.toNat) := by
  simp [encode, Nat.shiftLeft_eq]
  omega

theorem toNat_opField (w : CmdWord) : (opField w).toNat = w.toNat / 1152921504606846976 := by
  have := w.isLt
  simp [opField, Nat.shiftRight_eq_div_pow]
  omega

theorem toNat_reservedZ (w : CmdWord) : (reservedZ w).toNat = w.toNat % 1152921504606846976 := by
  simp [reservedZ]

theorem toNat_reservedTW (w : CmdWord) : (reservedTW w).toNat = w.toNat / 65536 % 17592186044416 := by
  simp [reservedTW, Nat.shiftRight_eq_div_pow]

theorem toNat_reservedRAW (w : CmdWord) : (reservedRAW w).toNat = w.toNat / 1099511627776 % 1048576 := by
  simp [reservedRAW, Nat.shiftRight_eq_div_pow]

theorem toNat_fieldT (w : CmdWord) : (fieldT w).toNat = w.toNat / 256 % 256 := by
  simp [fieldT, Nat.shiftRight_eq_div_pow]

theorem toNat_fieldW (w : CmdWord) : (fieldW w).toNat = w.toNat % 256 := by
  simp [fieldW]

theorem toNat_fieldA (w : CmdWord) : (fieldA w).toNat = w.toNat / 4294967296 % 256 := by
  simp [fieldA, Nat.shiftRight_eq_div_pow]

theorem toNat_fieldV (w : CmdWord) : (fieldV w).toNat = w.toNat % 4294967296 := by
  simp [fieldV]

theorem toNat_fieldN (w : CmdWord) : (fieldN w).toNat = w.toNat % 65536 := by
  simp [fieldN]

/-- A word decodes to a command exactly when the flag is set. -/
theorem ifReservedZero_eq_instr {b : Bool} {i j : Instr} :
    ifReservedZero b i = .instr j ↔ b = true ∧ i = j := by
  cases b <;> simp [ifReservedZero]

/-- The port's decoder, by opcode: the reserved bits are 0 and the command carries the fields. -/
theorem decode_eq_instr_iff (w : CmdWord) (j : Instr) :
    decode w = .instr j ↔
      ((opField w).toNat = 0 ∧ reservedZ w = 0 ∧ .nop = j) ∨
      ((opField w).toNat = 1 ∧ reservedTW w = 0 ∧ .encTw (fieldT w) (fieldW w) = j) ∨
      ((opField w).toNat = 2 ∧ reservedRAW w = 0 ∧ .encRaw (fieldA w) (fieldV w) = j) ∨
      ((opField w).toNat = 3 ∧ reservedTW w = 0 ∧ .dec (fieldN w) = j) ∨
      ((opField w).toNat = 4 ∧ reservedTW w = 0 ∧ .cksum (fieldT w) (fieldW w) = j) := by
  unfold decode
  split <;> simp_all [ifReservedZero_eq_instr]

end Sys2Proof
end

