-- ==== Sys2Proof/Laws/Units.lean ====
section
/-! SUPPORT. What a turn of each agent can do: one lemma per operation, cited instead of unfolding it. -/

namespace Sys2Proof.Machine

/-- This hardware's configuration is legal (00_scope.md R8). -/
@[simp] theorem hw_legal : Config.hw.legal = true := rfl

@[simp] theorem hw_capDepth : Config.hw.capDepth = 64 := rfl

@[simp] theorem hw_durW : Config.hw.durW = 16 := rfl

@[simp] theorem hw_frameBits : Config.hw.frameBits = 40 := rfl

@[simp] theorem hw_protoId : Config.hw.protoId = Config.openProtoId := rfl

@[simp] theorem hw_zeroMin : Config.hw.zeroMin = 300 := rfl
@[simp] theorem hw_zeroMax : Config.hw.zeroMax = 500 := rfl
@[simp] theorem hw_oneMin : Config.hw.oneMin = 600 := rfl
@[simp] theorem hw_oneMax : Config.hw.oneMax = 1000 := rfl
@[simp] theorem hw_hdrMin : Config.hw.hdrMin = 1200 := rfl
@[simp] theorem hw_hdrMax : Config.hw.hdrMax = 2000 := rfl
@[simp] theorem hw_zeroDuration : Config.hw.zeroDuration = 400 := rfl
@[simp] theorem hw_oneDuration : Config.hw.oneDuration = 800 := rfl
@[simp] theorem hw_headerDuration : Config.hw.headerDuration = 1600 := rfl
@[simp] theorem hw_trailerGuard : Config.hw.trailerGuard = 1000 := rfl
@[simp] theorem hw_seedDefault : Config.hw.seedDefault = 0xAE := rfl
@[simp] theorem hw_fixedMarker : Config.hw.fixedMarker = 0xAA := rfl
@[simp] theorem hw_ckOffset : Config.hw.ckOffset = 0x0D := rfl

theorem hdrOk_iff (c : Config) (p : PulseSegment) :
    hdrOk c p = true ↔ p.level = .on ∧ c.hdrMin ≤ p.dur ∧ p.dur ≤ c.hdrMax := by
  simp [hdrOk]

/-- Shifting a bit in doubles the accumulator and adds the bit, modulo 2^40. -/
theorem toNat_shiftIn (acc : Frame) (b : Bool) :
    (shiftIn acc b).toNat = (2 * acc.toNat + b.toNat) % 1099511627776 := by
  have hb : b.toNat < 2 := Bool.toNat_lt b
  simp only [shiftIn, BitVec.toNat_add, BitVec.toNat_shiftLeft, BitVec.toNat_setWidth, BitVec.toNat_ofBool]
  omega

theorem encodeCommand_of_idle {s : State} (h : s.encSt = .idle) (f : Frame) :
    encodeCommand f s = startEncode (acceptWord s) f := by
  simp [encodeCommand, h]

theorem encodeCommand_of_busy {s : State} (h : s.encSt ≠ .idle) (f : Frame) : encodeCommand f s = s := by
  simp [encodeCommand, h]

theorem execDec_of_idle {s : State} (h : s.decSt = .idle) (n : BitVec 16) :
    execDec n s = .next (startDecode Config.hw (acceptWord s) n) := by
  simp [execDec, h]

theorem execDec_of_busy {s : State} (h : s.decSt ≠ .idle) (n : BitVec 16) : execDec n s = .next s := by
  simp [execDec, h]

/-- Everything an encoder turn can do. -/
theorem encoderStep_cases (c : Config) (s : State) :
    (s.encSt = .idle ∧ encoderStep c s = s) ∨
    (s.encSt = .hdr ∧ encoderStep c s = headerStep c s) ∨
    (s.encSt = .slot ∧ encoderStep c s = slotStep c s) ∨
    (s.encSt = .trl ∧ encoderStep c s = trailerStep c s) := by
  cases h : s.encSt <;> simp [encoderStep, h]

/-- What taking a present entry can do: a failure, or one bit more. -/
theorem takeSlot_cases (c : Config) (p : PulseSegment) (s : State) :
    takeSlot c p s = failDecode s .truncatedFrame ∨
    takeSlot c p s = failDecode s .ambiguousTiming ∨
    ∃ b, p.level = slotLevel s.decIdx.toNat ∧ classify c p.dur = some b ∧
      takeSlot c p s = { s with
        decAcc := shiftIn s.decAcc b
        decIdx := s.decIdx + 1
        decSt := if s.decIdx.toNat + 1 = c.frameBits then .done else .readBits } := by
  unfold takeSlot
  split
  · exact .inl rfl
  · next hl =>
    cases hc : classify c p.dur with
    | none => exact .inr (.inl rfl)
    | some b => exact .inr (.inr ⟨b, not_not.mp hl, rfl, rfl⟩)

/-- Everything an AWAIT_HEADER step that answers a next state can do. -/
theorem awaitHeaderStep_cases {c : Config} {s t : State} (h : awaitHeaderStep c s = .next t) :
    (s.decLen = 0 ∧ t = failDecode s .malformedHeader) ∨
    (s.decLen ≠ 0 ∧ ∃ p u, capRead c s 0 = some (p, u) ∧
      ((hdrOk c p = true ∧ t = { u with decSt := .readBits }) ∨
       (hdrOk c p = false ∧ t = failDecode u .malformedHeader))) := by
  unfold awaitHeaderStep at h
  split at h
  · next h0 => cases h; exact .inl ⟨h0, rfl⟩
  · next h0 =>
    cases hr : capRead c s 0 with
    | none => simp [hr] at h
    | some r =>
      obtain ⟨p, u⟩ := r
      simp only [hr] at h
      split at h
      · next hh => cases h; exact .inr ⟨h0, p, u, rfl, .inl ⟨hh, rfl⟩⟩
      · next hh => cases h; exact .inr ⟨h0, p, u, rfl, .inr ⟨by simpa using hh, rfl⟩⟩

/-- Everything a READ_BITS step that answers a next state can do. -/
theorem readBitsStep_cases {c : Config} {s t : State} (h : readBitsStep c s = .next t) :
    (s.decLen.toNat ≤ s.decIdx.toNat + 1 ∧ t = failDecode s .truncatedFrame) ∨
    (s.decIdx.toNat + 1 < s.decLen.toNat ∧
      ∃ p u, capRead c s (s.decIdx.toNat + 1) = some (p, u) ∧ t = takeSlot c p u) := by
  unfold readBitsStep at h
  split at h
  · next h0 => cases h; exact .inl ⟨h0, rfl⟩
  · next h0 =>
    cases hr : capRead c s (s.decIdx.toNat + 1) with
    | none => simp [hr] at h
    | some r =>
      obtain ⟨p, u⟩ := r
      simp only [hr] at h
      cases h
      exact .inr ⟨Nat.lt_of_not_le h0, p, u, rfl, rfl⟩

/-- Everything a decoder turn can do under a legal configuration. -/
theorem decoderStep_cases {c : Config} (hc : c.legal = true) (s : State) :
    (s.decSt = .idle ∧ decoderStep c s = .next s) ∨
    (s.decSt = .awaitHeader ∧ decoderStep c s = awaitHeaderStep c s) ∨
    (s.decSt = .readBits ∧ decoderStep c s = readBitsStep c s) ∨
    (s.decSt = .done ∧ decoderStep c s = .next (finishDecode c s)) := by
  cases h : s.decSt <;> simp [decoderStep, hc, h]

/-- An illegal configuration is refused (93_implementation_defined.md I1). -/
theorem decoderStep_illegal {c : Config} (hc : c.legal = false) (s : State) :
    decoderStep c s = .refused .illegalConfiguration := by
  simp [decoderStep, hc]

/-- No command fails: each is accepted or held. -/
theorem exec_answers_next (i : Instr) (s : State) : ∃ t, exec i s = .next t := by
  cases i with
  | nop => exact ⟨_, rfl⟩
  | encTw t w => exact ⟨_, rfl⟩
  | encRaw a v => exact ⟨_, rfl⟩
  | dec n => exact ⟨_, rfl⟩
  | cksum t w => exact ⟨_, rfl⟩

/-- Everything presenting can do: no word is left, a command runs, or an illegal word is recorded. -/
theorem present_cases (s : State) :
    (s.hostWords = [] ∧ present s = .next s) ∨
    (∃ w ws i, s.hostWords = w :: ws ∧ decode w = .instr i ∧ present s = exec i s) ∨
    (∃ w ws why, s.hostWords = w :: ws ∧ decode w = .illegal why ∧ present s = illegalCommand s) := by
  cases hw : s.hostWords with
  | nil => exact .inl ⟨rfl, by simp [present, hw]⟩
  | cons w ws =>
    cases hd : decode w with
    | instr i => exact .inr (.inl ⟨w, ws, i, rfl, hd, by simp [present, hw, hd]⟩)
    | illegal why => exact .inr (.inr ⟨w, ws, why, rfl, hd, by simp [present, hw, hd]⟩)

theorem step_of_no_turn {s : State} (h : s.turns = []) : step s = .next s := by
  simp [step, h]

theorem step_of_turn {s : State} {t : Turn} {ts : List Turn} (h : s.turns = t :: ts) :
    step s = takeTurn t (endTurn s) := by
  simp [step, h]

/-- The very next step after `withFetchWord` presents the word in the state it was given. -/
theorem step_withFetchWord (s : State) (nbits w : Nat) :
    step (s.withFetchWord nbits w) =
      present { s with hostWords := tableWord nbits w :: s.hostWords } := rfl

end Sys2Proof.Machine
end

