-- ==== Sys2Proof/Laws/Operands.lean ====
section
/-! SUPPORT. The datapath's functions as numbers: frames, the fields of a frame, and the tokens of a frame. -/

namespace Sys2Proof.Machine

theorem toNat_append_add {n m : Nat} (x : BitVec n) (y : BitVec m) :
    (x ++ y).toNat = x.toNat * 2 ^ m + y.toNat := by
  rw [BitVec.toNat_append, Nat.shiftLeft_eq, Nat.mul_comm, Nat.two_pow_add_eq_or_of_lt y.isLt]

/-- {A, V} as a number (42_encoder.md R162). -/
theorem toNat_frameRaw (a : BitVec 8) (v : BitVec 32) :
    (frameRaw a v).toNat = a.toNat * 4294967296 + v.toNat :=
  toNat_append_add a v

/-- Checksum(t, w) as a number, for any offset (41_checksum.md R140). -/
theorem toNat_checksum (c : Config) (t w : BitVec 8) :
    (checksum c t w).toNat = (c.ckOffset + t.toNat + w.toNat) % 16 := by
  simp [checksum]

/-- pack(t, w) as a number (42_encoder.md R160). -/
theorem toNat_packTW (c : Config) (t w : BitVec 8) :
    (packTW c t w).toNat =
      c.fixedMarker.toNat * 16777216 + t.toNat * 65536 + w.toNat * 256 + (c.ckOffset + t.toNat + w.toNat) % 16 := by
  have h : (packTW c t w).toNat =
      (((c.fixedMarker.toNat * 2 ^ 8 + t.toNat) * 2 ^ 8 + w.toNat) * 2 ^ 4 + (0#4).toNat) * 2 ^ 4 +
        (checksum c t w).toNat :=
    (toNat_append_add _ _).trans (by rw [toNat_append_add, toNat_append_add, toNat_append_add])
  rw [h, toNat_checksum]
  simp only [BitVec.toNat_ofNat]
  omega

/-- frameTW(t, w) is ENC.RAW's frame of the seed and pack(t, w) (42_encoder.md R160). -/
theorem frameTW_eq_frameRaw (c : Config) (t w : BitVec 8) :
    frameTW c t w = frameRaw c.seedDefault (packTW c t w) := rfl

theorem toNat_frameAddr (f : Frame) : (frameAddr f).toNat = f.toNat / 4294967296 := by
  have := f.isLt
  simp [frameAddr, Nat.shiftRight_eq_div_pow]
  omega

theorem toNat_frameValue (f : Frame) : (frameValue f).toNat = f.toNat % 4294967296 := by
  simp [frameValue]

/-- The address byte and the value of a frame make the frame up (43_decoder.md R208). -/
theorem frameAddr_append_frameValue (f : Frame) : frameAddr f ++ frameValue f = f := by
  apply BitVec.eq_of_toNat_eq
  have h : (frameAddr f ++ frameValue f).toNat = (frameAddr f).toNat * 2 ^ 32 + (frameValue f).toNat :=
    toNat_append_add _ _
  rw [toNat_frameAddr, toNat_frameValue] at h
  exact h.trans (by omega)

@[simp] theorem frameAddr_frameRaw (a : BitVec 8) (v : BitVec 32) : frameAddr (frameRaw a v) = a := by
  apply BitVec.eq_of_toNat_eq
  rw [toNat_frameAddr, toNat_frameRaw]
  omega

@[simp] theorem frameValue_frameRaw (a : BitVec 8) (v : BitVec 32) : frameValue (frameRaw a v) = v := by
  apply BitVec.eq_of_toNat_eq
  rw [toNat_frameValue, toNat_frameRaw]
  omega

/-- The comparison of the DONE step as numbers (43_decoder.md R209). -/
theorem checksumMismatch_iff (c : Config) (f : Frame) :
    checksumMismatch c f = true ↔
      f.toNat % 16 ≠ (c.ckOffset + f.toNat / 65536 % 256 + f.toNat / 256 % 256) % 16 := by
  have h : checksumMismatch c f = true ↔ (f.extractLsb' 0 4).toNat ≠
      (checksum c (f.extractLsb' 16 8) (f.extractLsb' 8 8)).toNat := by
    simp [checksumMismatch, BitVec.toNat_eq]
  rw [h, toNat_checksum]
  simp [Nat.shiftRight_eq_div_pow]

/-- A token's duration is DUR_W bits (30_encoding.md R101). -/
theorem tokenDur_lt (c : Config) (d : Dur) : tokenDur c d < 2 ^ c.durW :=
  Nat.mod_lt _ (Nat.two_pow_pos _)

/-- A duration constant that fits DUR_W bits is emitted as it is. -/
theorem tokenDur_of_lt {c : Config} {d : Dur} (h : d < 2 ^ c.durW) : tokenDur c d = d :=
  Nat.mod_eq_of_lt h

@[simp] theorem headerToken_hw : headerToken Config.hw = ⟨.on, 1600⟩ := rfl

@[simp] theorem trailerToken_hw : trailerToken Config.hw = ⟨.off, 1000⟩ := rfl

@[simp] theorem bitDur_hw (b : Bool) : bitDur Config.hw b = if b then 800 else 400 := by
  cases b <;> rfl

@[simp] theorem slotBit_hw (f : Frame) (i : Nat) : slotBit Config.hw f i = f.getLsbD (39 - i) := rfl

/-- The 42 tokens of a frame at this hardware's constants (42_encoder.md R169). -/
theorem frameTokens_hw (f : Frame) :
    frameTokens Config.hw f =
      ⟨.on, 1600⟩ :: ((List.range 40).map (fun i =>
        ⟨slotLevel i, if f.getLsbD (39 - i) then 800 else 400⟩) ++ [⟨.off, 1000⟩]) := by
  have h : slotToken Config.hw f =
      fun i => ⟨slotLevel i, if f.getLsbD (39 - i) then 800 else 400⟩ := by
    funext i
    rw [slotToken, bitDur_hw, slotBit_hw]
  rw [frameTokens, h]
  rfl

theorem frameTokens_zero (c : Config) (f : Frame) : (frameTokens c f)[0]? = some (headerToken c) := rfl

/-- Token i + 1 of a frame is slot i's (42_encoder.md R169). -/
theorem frameTokens_slot (c : Config) (f : Frame) {i : Nat} (h : i < c.frameBits) :
    (frameTokens c f)[i + 1]? = some (slotToken c f i) := by
  simp [frameTokens, List.getElem?_append_left, h]

/-- The slot step at this hardware's constants (42_encoder.md R164). -/
theorem slotStep_hw (s : State) :
    slotStep Config.hw s =
      { emit s (slotToken Config.hw s.encFrame s.encIdx.toNat) with
        encIdx := s.encIdx + 1
        encSt := if s.encIdx.toNat + 1 = 40 then .trl else .slot } := rfl

/-- What taking a present entry can do, at this hardware's constants (43_decoder.md R205). -/
theorem takeSlot_hw_cases (p : PulseSegment) (s : State) :
    takeSlot Config.hw p s = failDecode s .truncatedFrame ∨
    takeSlot Config.hw p s = failDecode s .ambiguousTiming ∨
    ∃ b, p.level = slotLevel s.decIdx.toNat ∧ classify Config.hw p.dur = some b ∧
      takeSlot Config.hw p s = { s with
        decAcc := shiftIn s.decAcc b
        decIdx := s.decIdx + 1
        decSt := if s.decIdx.toNat + 1 = 40 then .done else .readBits } :=
  takeSlot_cases Config.hw p s

end Sys2Proof.Machine
end

