-- ==== Sys2Proof/Laws/PerInstr.lean ====
section
/-! SUPPORT. Per-instruction families (LAWS.json). HasItsRowsOpcode: a command's row is in the opcode map, and its word
carries that row's OP (30_encoding.md R91, R97). -/

namespace Sys2Proof.Laws.HasItsRowsOpcode

def Statement (i : Instr) : Prop :=
  opcodeRowOf i ∈ opcodeMap ∧ (opField (encode i)).toNat = (opField (opcodeRowOf i).pattern).toNat

theorem nop : Statement .nop := by
  unfold Statement
  decide

theorem encTw (t w : BitVec 8) : Statement (.encTw t w) := by
  refine ⟨by simp [opcodeMap, opcodeRowOf], ?_⟩
  rw [toNat_opField, toNat_opField, toNat_encode_encTw]
  simp only [opcodeRowOf, BitVec.reduceToNat]
  omega

theorem encRaw (a : BitVec 8) (v : BitVec 32) : Statement (.encRaw a v) := by
  refine ⟨by simp [opcodeMap, opcodeRowOf], ?_⟩
  rw [toNat_opField, toNat_opField, toNat_encode_encRaw]
  simp only [opcodeRowOf, BitVec.reduceToNat]
  omega

theorem dec (n : BitVec 16) : Statement (.dec n) := by
  refine ⟨by simp [opcodeMap, opcodeRowOf], ?_⟩
  rw [toNat_opField, toNat_opField, toNat_encode_dec]
  simp only [opcodeRowOf, BitVec.reduceToNat]
  omega

theorem cksum (t w : BitVec 8) : Statement (.cksum t w) := by
  refine ⟨by simp [opcodeMap, opcodeRowOf], ?_⟩
  rw [toNat_opField, toNat_opField, toNat_encode_cksum]
  simp only [opcodeRowOf, BitVec.reduceToNat]
  omega

end Sys2Proof.Laws.HasItsRowsOpcode
end

