-- ==== Sys2Proof/Laws/Runs.lean ====
section
/-! SUPPORT. Runs under a schedule: a run is a turn and then the run of the rest, and no turn changes the schedule. -/

namespace Sys2Proof.Machine

@[simp] theorem endTurn_withTurns (s : State) (t : Turn) (ts : List Turn) :
    endTurn (withTurns s (t :: ts)) = withTurns s ts := rfl

@[simp] theorem withTurns_self (s : State) : withTurns s s.turns = s := rfl

theorem exec_turns {i : Instr} {s u : State} (h : exec i s = .next u) : u.turns = s.turns := by
  cases i with
  | nop => cases h; rfl
  | cksum t w => cases h; rfl
  | encTw t w =>
    cases h
    unfold encodeCommand
    split <;> rfl
  | encRaw a v =>
    cases h
    unfold encodeCommand
    split <;> rfl
  | dec n =>
    cases h
    split <;> rfl

theorem takeSlot_turns (c : Config) (p : PulseSegment) (s : State) : (takeSlot c p s).turns = s.turns := by
  rcases takeSlot_cases c p s with e | e | ⟨b, -, -, e⟩ <;> rw [e] <;> rfl

theorem capRead_turns {c : Config} {s u : State} {i : Nat} {p : PulseSegment} (h : capRead c s i = some (p, u)) :
    u.turns = s.turns := by
  rw [capRead_state h]

theorem decoderStep_turns {c : Config} {s u : State} (h : decoderStep c s = .next u) : u.turns = s.turns := by
  by_cases hc : c.legal = true
  · rcases decoderStep_cases hc s with ⟨-, e⟩ | ⟨-, e⟩ | ⟨-, e⟩ | ⟨-, e⟩ <;> rw [e] at h
    · cases h; rfl
    · rcases awaitHeaderStep_cases h with ⟨-, rfl⟩ | ⟨-, p, v, hr, ⟨-, rfl⟩ | ⟨-, rfl⟩⟩
      · rfl
      · exact (capRead_turns hr : v.turns = s.turns)
      · exact (capRead_turns hr : v.turns = s.turns)
    · rcases readBitsStep_cases h with ⟨-, rfl⟩ | ⟨-, p, v, hr, rfl⟩
      · rfl
      · rw [takeSlot_turns, capRead_turns hr]
    · cases h; rfl
  · rw [decoderStep_illegal (by simpa using hc)] at h
    cases h

/-- No turn changes the schedule of the turns after it. -/
theorem takeTurn_turns {t : Turn} {s u : State} (h : takeTurn t s = .next u) : u.turns = s.turns := by
  cases t with
  | present =>
    rcases present_cases s with ⟨-, e⟩ | ⟨w, ws, i, -, -, e⟩ | ⟨w, ws, y, -, -, e⟩ <;>
      simp only [takeTurn, e] at h
    · cases h; rfl
    · exact exec_turns h
    · cases h; rfl
  | read a => cases h; rfl
  | capWrite i l d =>
    cases h
    rw [capWrite_state]
  | encoder =>
    cases h
    rcases encoderStep_cases Config.hw s with ⟨-, e⟩ | ⟨-, e⟩ | ⟨-, e⟩ | ⟨-, e⟩ <;> rw [e] <;> rfl
  | decoder => exact decoderStep_turns h
  | reset => cases h; rfl

theorem core_run_of_next (M : Host.Core) {k : Nat} {s t : M.State} (h : M.step s = .next t) :
    M.run (k + 1) s = M.run k t := by
  simp [Host.Core.run, h]

theorem core_run_of_fault (M : Host.Core) {k : Nat} {s : M.State} {r : M.Fault} (h : M.step s = .fault r) :
    M.run (k + 1) s = .fault r := by
  simp [Host.Core.run, h]

theorem core_run_of_refused (M : Host.Core) {k : Nat} {s : M.State} {r : M.Refusal} (h : M.step s = .refused r) :
    M.run (k + 1) s = .refused r := by
  simp [Host.Core.run, h]

/-- The host's run of the core is the machine's own. -/
theorem core_run_eq_runSteps (k : Nat) (s : State) : Host.Core.run Sys2Proof.core k s = runSteps k s := by
  induction k generalizing s with
  | zero => rfl
  | succ k ih =>
    cases hs : step s with
    | next t =>
      rw [runSteps, hs]
      exact (core_run_of_next Sys2Proof.core hs).trans (ih t)
    | fault r =>
      rw [runSteps, hs]
      exact core_run_of_fault Sys2Proof.core hs
    | refused r =>
      rw [runSteps, hs]
      exact core_run_of_refused Sys2Proof.core hs

theorem runTurns_nil (s : State) : runTurns [] s = .next (withTurns s []) := rfl

/-- A run is its first turn, and then the run of the rest from the state that turn gives. -/
theorem runTurns_cons (t : Turn) (ts : List Turn) (s : State) :
    runTurns (t :: ts) s =
      match takeTurn t (withTurns s ts) with
      | .next u => runTurns ts u
      | .fault r => .fault r
      | .refused r => .refused r := by
  have hs : step (withTurns s (t :: ts)) = takeTurn t (withTurns s ts) := rfl
  simp only [runTurns, List.length_cons, runSteps, hs]
  cases ht : takeTurn t (withTurns s ts) with
  | next u =>
    have hu : u.turns = ts := takeTurn_turns ht
    have hw : withTurns u ts = u := by rw [← hu, withTurns_self]
    simp only [hw]
  | fault r => rfl
  | refused r => rfl

/-- A run that answers a next state: its first turn does, and so does the rest. -/
theorem runTurns_cons_next {t : Turn} {ts : List Turn} {s v : State} (h : runTurns (t :: ts) s = .next v) :
    ∃ u, takeTurn t (withTurns s ts) = .next u ∧ runTurns ts u = .next v := by
  rw [runTurns_cons] at h
  cases ht : takeTurn t (withTurns s ts) with
  | next u => exact ⟨u, rfl, by simpa [ht] using h⟩
  | fault r => simp [ht] at h
  | refused r => simp [ht] at h

end Sys2Proof.Machine
end

