-- ==== Sys2Proof/Tests/Slice0.lean ====
section
/-! SUPPORT. Own tests: decoding of words written out from the spec's encodings, the well-formedness checks, one or two
steps per command against the vectors of 95_test_vectors.md, and a witness for the hypotheses of each statement. -/

namespace Sys2Proof.Tests

open Sys2Proof Sys2Proof.Machine

/-! ## Decoding (30_encoding.md R97, R104; 40_port.md R122) -/

theorem test_decode_nop : decode 0x0000000000000000 = .instr .nop := by decide
theorem test_decode_encTw : decode 0x1000000000001234 = .instr (.encTw 0x12 0x34) := by decide
theorem test_decode_encRaw : decode 0x200000AEAA123403 = .instr (.encRaw 0xAE 0xAA123403) := by decide
theorem test_decode_dec : decode 0x300000000000002A = .instr (.dec 42) := by decide
theorem test_decode_cksum : decode 0x400000000000FFFF = .instr (.cksum 0xFF 0xFF) := by decide
theorem test_decode_unassigned : decode 0xF000000000000000 = .illegal .unassignedOpcode := by decide
theorem test_decode_nop_reserved : decode 0x0000000000000001 = .illegal .reservedBitsSet := by decide
theorem test_decode_encTw_reserved : decode 0x1000000000011234 = .illegal .reservedBitsSet := by decide
theorem test_decode_encRaw_reserved : decode 0x2000010000000000 = .illegal .reservedBitsSet := by decide
theorem test_encode_examples :
    encode (.encTw 0x12 0x34) = 0x1000000000001234 ∧ encode (.encRaw 0xAE 0xAA123403) = 0x200000AEAA123403 ∧
    encode (.dec 42) = 0x300000000000002A ∧ encode (.cksum 0x12 0x34) = 0x4000000000001234 := by decide
theorem test_assembler_truncates : assembleEncTw 0x112 0x34 = 0x1000000000001234 := by decide
theorem test_decodeTableWord : decodeTableWord 64 0x3000000000000000 = some (.dec 0) := by decide

/-! ## Well-formedness: a term each check refuses (00_scope.md R8) -/

theorem test_hw_legal : Config.hw.legal = true := by decide
theorem test_refuses_overlapping_bands : Config.bandsOrdered { protoId := 0, zeroMax := 600 } = false := by decide
theorem test_refuses_reversed_header_band : Config.bandsOrdered { protoId := 0, hdrMin := 2001 } = false := by decide
theorem test_refuses_wide_band : Config.bandsFit { protoId := 0, hdrMax := 65536 } = false := by decide
theorem test_refuses_ten_bit_durations : Config.durWOk { protoId := 0, durW := 10 } = false := by decide
theorem test_refuses_shallow_capture : Config.depthOk { protoId := 0, capDepth := 40 } = false := by decide
theorem test_refuses_tolerance_34 : Config.tolOk { protoId := 0, tolPct := 34 } = false := by decide
theorem test_refuses_41_bit_frame : Config.frameBitsOk { protoId := 0, frameBits := 41 } = false := by decide
/-- 93_implementation_defined.md I13: DUR_W = 11 holds the header band. -/
theorem test_eleven_bit_durations_legal : Config.legal { protoId := 0, durW := 11 } = true := by decide
theorem test_illegal_word_has_no_row : legalWord 0x0000000000000001 = false ∧ legalWord 0x5000000000000000 = false := by
  decide

/-! ## One step of each command, against the spec's vectors -/

/-- The outcome is a next state of which `p` holds. -/
def nextIs (o : Host.Outcome State Fault Refusal) (p : State → Bool) : Bool :=
  match o with
  | .next s => p s
  | _ => false

theorem exists_of_nextIs {o : Host.Outcome State Fault Refusal} {p : State → Bool} (h : nextIs o p = true) :
    ∃ s, o = .next s ∧ p s = true := by
  cases o with
  | next s => exact ⟨s, rfl, h⟩
  | fault r => cases h
  | refused r => cases h

/-- Just after reset, with a word at the port and the HOST's turn to present it. -/
def presenting (w : CmdWord) : State :=
  State.reset.withFetchWord 64 w.toNat

/-- A busy encoder (ENC_ST = SLOT) that presents a word. -/
def busyEncoder (w : CmdWord) : State :=
  { presenting w with encSt := .slot }

/-- A busy decoder that presents a word. -/
def busyDecoder (w : CmdWord) : State :=
  { presenting w with decSt := .awaitHeader }

/-- The capture of a frame's 42 tokens. -/
def captureOf (f : Frame) : Memory :=
  (frameTokens Config.hw f).zipIdx.map (fun e => (e.2, e.1))

/-- A decode just accepted, with a capture and a length. -/
def decoding (m : Memory) (n : BitVec 16) : State :=
  { startDecode Config.hw State.reset n with cap := m, turns := [.decoder] }

/-- 40_port.md R123. -/
theorem test_nop : nextIs (step (presenting 0)) (fun s => s.hostWords = [] ∧ statusWord s = 0) = true := by decide
/-- W2, V-E1: ENC_FRAME = 0xAEAA123403. -/
theorem test_encTw : nextIs (step (presenting 0x1000000000001234))
    (fun s => s.encFrame = 0xAEAA123403 ∧ s.encSt = .hdr ∧ statusWord s = 1) = true := by decide
/-- V-P5: held. -/
theorem test_encTw_held : nextIs (step (busyEncoder 0x1000000000000102))
    (fun s => s.encFrame = 0 ∧ s.hostWords = [0x1000000000000102]) = true := by decide
/-- V-E1's second form. -/
theorem test_encRaw : nextIs (step (presenting 0x200000AEAA123403))
    (fun s => s.encFrame = 0xAEAA123403 ∧ s.hostWords = []) = true := by decide
/-- 43_decoder.md R200, V-D23: DEC 1000 reads at most 64 entries. -/
theorem test_dec : nextIs (step (presenting 0x30000000000003E8))
    (fun s => s.decLen = 64 ∧ s.decSt = .awaitHeader ∧ statusWord s = 2) = true := by decide
/-- 40_port.md R121. -/
theorem test_dec_held : nextIs (step (busyDecoder 0x300000000000002A))
    (fun s => s.decLen = 0 ∧ s.hostWords = [0x300000000000002A]) = true := by decide
/-- V-C1, V-P7: CKSUM beside a busy decoder. -/
theorem test_cksum : nextIs (step (busyDecoder 0x4000000000001234)) (fun s => s.ckRes = 0x3) = true := by decide
/-- V-C3. -/
theorem test_cksum_max : nextIs (step (presenting 0x400000000000FFFF)) (fun s => s.ckRes = 0xB) = true := by decide
/-- V-P6: an illegal ENC.TW word beside a busy encoder. -/
theorem test_illegal : nextIs (step (busyEncoder 0x1000000000010000))
    (fun s => statusWord s = 0x81 ∧ s.hostWords = []) = true := by decide
/-- V-E1 token 0. -/
theorem test_header_token : nextIs (step { State.reset with encSt := .hdr, turns := [.encoder] })
    (fun s => s.emitted.map (packSegment Config.hw) = [0x10640] ∧ s.encSt = .slot) = true := by decide
/-- V-E1 token 40, the last slot. -/
theorem test_last_slot_token :
    nextIs (step { State.reset with encSt := .slot, encIdx := 39, encFrame := 0xAEAA123403, turns := [.encoder] })
      (fun s => s.emitted.map (packSegment Config.hw) = [0x10320] ∧ s.encSt = .trl ∧ s.encIdx = 40) = true := by decide
/-- V-D4. -/
theorem test_malformed_header : nextIs (step (decoding [(0, ⟨.on, 3200⟩)] 42))
    (fun s => statusWord s = 0x14 ∧ s.decSlots = 0) = true := by decide
/-- V-D16: wrong polarity and unclassifiable. -/
theorem test_polarity_before_duration :
    nextIs (step { decoding [(0, ⟨.on, 1600⟩), (1, ⟨.on, 1600⟩)] 42 with decSt := .readBits })
      (fun s => statusWord s = 0x24) = true := by decide
/-- V-D9. -/
theorem test_ambiguous_timing :
    nextIs (step { decoding [(5, ⟨.off, 1600⟩)] 42 with decSt := .readBits, decIdx := 4 })
      (fun s => statusWord s = 0x34 ∧ s.decSlots = 4) = true := by decide
/-- V-D18: the DONE step with a checksum mismatch. -/
theorem test_done_mismatch :
    nextIs (step { decoding [] 42 with decSt := .done, decIdx := 40, decAcc := 0xAEAA123402 })
      (fun s => statusWord s = 0x4C ∧ s.decValue = 0xAA123402 ∧ s.decAddr = 0xAE ∧ s.decBits = 40) = true := by decide
/-- V-P9. -/
theorem test_reset_keeps_emitted :
    nextIs (step { State.reset with encSt := .slot, encIdx := 10, emitted := [⟨.on, 1600⟩], turns := [.reset] })
      (fun s => s.encSt = .idle ∧ s.encIdx = 0 ∧ s.emitted = [⟨.on, 1600⟩]) = true := by decide
/-- 60_exceptions.md R278: a HOST with a capture write still to do has not finished its program. -/
theorem test_run_with_capture_write_left_is_not_over :
    ¬ runOver { State.reset with turns := [.capWrite 0 .on 1600] } := fun h => by
  rcases h.2.2 _ (List.mem_singleton.mpr rfl) with h | h | h <;> cases h
/-- V-P8. -/
theorem test_capw_out_of_range : nextIs (step { State.reset with turns := [.capWrite 64 .on 1600] })
    (fun s => s.cap = []) = true := by decide

/-! ## Witnesses: for each statement with hypotheses, a state and operands that meet them -/

theorem witness_DecodeOfEncodeIsTheCommand : (Instr.encRaw 0xFF 0xFFFFFFFF).wf = true := by decide
theorem witness_EncodeOfDecodeIsTheWord : decode 0x300000000000FFFF = .instr (.dec 0xFFFF) := by decide
theorem witness_AtMostOneOpcodeRowMatches :
    ∃ r ∈ opcodeMap, r.selects 0x1000000000001234 = true := by decide
theorem witness_StepRunsTheDecodedCommand :
    (presenting 0x4000000000001234).turns = .present :: [] ∧
    (presenting 0x4000000000001234).hostWords = 0x4000000000001234 :: [] ∧
    decode 0x4000000000001234 = .instr (.cksum 0x12 0x34) ∧ (Instr.cksum 0x12 0x34).wf = true := by decide
theorem witness_IllegalWordSetsOnlyCmdErr :
    (busyEncoder 0x1000000000010034).turns = .present :: [] ∧
    (busyEncoder 0x1000000000010034).hostWords = 0x1000000000010034 :: [] ∧
    legalWord 0x1000000000010034 = false := by decide
theorem witness_CommandForBusyUnitIsHeld :
    ((busyEncoder (encode (.encTw 1 2))).turns = .present :: [] ∧ (busyEncoder (encode (.encTw 1 2))).encSt ≠ .idle ∧
      (busyEncoder (encode (.encTw 1 2))).hostWords = encode (.encTw 1 2) :: []) ∧
    ((busyEncoder (encode (.encRaw 1 2))).encSt ≠ .idle ∧
      (busyEncoder (encode (.encRaw 1 2))).hostWords = encode (.encRaw 1 2) :: []) ∧
    ((busyDecoder (encode (.dec 42))).decSt ≠ .idle ∧
      (busyDecoder (encode (.dec 42))).hostWords = encode (.dec 42) :: []) := by decide
theorem witness_HeldWordDelaysAllBehindIt_encTw :
    (busyEncoder (encode (.encTw 1 2))).hostWords = encode (.encTw 1 2) :: [] ∧
    (busyEncoder (encode (.encTw 1 2))).encSt ≠ .idle ∧ decode (encode (.encTw 1 2)) = .instr (.encTw 1 2) ∧
    .reset ∉ [Turn.present, .read 0] ∧ .encoder ∉ [Turn.present, .read 0] ∧
    nextIs (runTurns [.present, .read 0] (busyEncoder (encode (.encTw 1 2)))) (fun _ => true) = true := by decide
theorem witness_HeldWordDelaysAllBehindIt_encRaw :
    (busyEncoder (encode (.encRaw 1 2))).hostWords = encode (.encRaw 1 2) :: [] ∧
    (busyEncoder (encode (.encRaw 1 2))).encSt ≠ .idle ∧ decode (encode (.encRaw 1 2)) = .instr (.encRaw 1 2) ∧
    nextIs (runTurns [.present, .read 0] (busyEncoder (encode (.encRaw 1 2)))) (fun _ => true) = true := by decide
theorem witness_HeldWordDelaysAllBehindIt_dec :
    (busyDecoder (encode (.dec 1))).hostWords = encode (.dec 1) :: [] ∧
    (busyDecoder (encode (.dec 1))).decSt ≠ .idle ∧ decode (encode (.dec 1)) = .instr (.dec 1) ∧
    .decoder ∉ [Turn.present, .encoder] ∧
    nextIs (runTurns [.present, .encoder] (busyDecoder (encode (.dec 1)))) (fun _ => true) = true := by decide
theorem witness_CommandFrames :
    nextIs (exec (.cksum 1 2) State.reset) (fun _ => true) = true ∧
    nextIs (exec (.dec 42) State.reset) (fun s => s.decSt = .awaitHeader) = true ∧
    nextIs (exec (.encTw 1 2) State.reset) (fun s => s.encSt = .hdr) = true := by decide
theorem witness_RegisterReadReturnsTheMap :
    ({ State.reset with turns := [.read 0xF] } : State).turns = .read 0xF :: [] ∧
    ({ State.reset with turns := [.read 0] } : State).turns = .read 0 :: [] := by decide
theorem witness_CksumWritesTheSumMod16 :
    nextIs (exec (.cksum 0x12 0x34) State.reset) (fun _ => true) = true ∧
    nextIs (exec (.cksum 0xFF 0xFF) State.reset) (fun _ => true) = true := by decide
theorem witness_EncTwLoadsItsFrame : State.reset.encSt = .idle := rfl
theorem witness_EncRawLoadsItsOperands : State.reset.encSt = .idle := rfl
theorem witness_EncTwIsEncRawOfThePackedFrame :
    (0xAAFFFF0B : BitVec 32).toNat = 0xAA * 2 ^ 24 + (0xFF : BitVec 8).toNat * 2 ^ 16 + (0xFF : BitVec 8).toNat * 2 ^ 8 +
      (0x0D + (0xFF : BitVec 8).toNat + (0xFF : BitVec 8).toNat) % 16 := by decide
theorem witness_HeaderStepEmitsTheHeader :
    ({ State.reset with encSt := .hdr, turns := [.encoder] } : State).turns = .encoder :: [] ∧
    ({ State.reset with encSt := .hdr, turns := [.encoder] } : State).encSt = .hdr := by decide
theorem witness_SlotStepEmitsTheSlot :
    ({ State.reset with encSt := .slot, encIdx := 39, turns := [.encoder] } : State).encSt = .slot ∧
    ({ State.reset with encSt := .slot, encIdx := 39, turns := [.encoder] } : State).encIdx.toNat < 40 ∧
    ({ State.reset with encSt := .slot, encIdx := 0, turns := [.encoder] } : State).encIdx.toNat < 40 ∧
    ({ State.reset with encSt := .slot, encIdx := 39, turns := [.encoder] } : State).turns = .encoder :: [] := by decide
theorem witness_TrailerStepEndsTheEncode :
    ({ State.reset with encSt := .trl, encIdx := 40, turns := [.encoder] } : State).turns = .encoder :: [] ∧
    ({ State.reset with encSt := .trl, encIdx := 40, turns := [.encoder] } : State).encSt = .trl := by decide
theorem witness_EncoderIsTotal :
    (({ State.reset with turns := [.encoder] } : State).turns = .encoder :: [] ∧ State.reset.encSt = .idle) ∧
    (({ State.reset with encSt := .trl, turns := [.encoder] } : State).turns = .encoder :: [] ∧
      ({ State.reset with encSt := .trl, turns := [.encoder] } : State).encSt ≠ .idle) := by decide
theorem witness_EmissionSequenceUnderEveryInterleaving :
    State.reset.encSt = .idle ∧ .reset ∉ [Turn.encoder, .read 0, .encoder] ∧
    [Turn.encoder, .read 0, .encoder].count .encoder ≤ 42 ∧
    nextIs (exec (.encTw 1 2) State.reset) (fun s =>
      nextIs (runTurns [.encoder, .read 0, .encoder] s) (fun _ => true)) = true ∧
    nextIs (exec (.encRaw 1 2) State.reset) (fun s =>
      nextIs (runTurns [.encoder, .read 0, .encoder] s) (fun _ => true)) = true := by decide
theorem witness_EncodeRunsToCompletion :
    ({ State.reset with encSt := .hdr } : State).encSt = .hdr ∧ ({ State.reset with encSt := .hdr } : State).encIdx = 0 := by
  decide
theorem witness_BackToBackEncodesDoNotInterleave :
    State.reset.encSt = .idle ∧
    ({ State.reset with hostWords := [encode (.encRaw 1 2), encode (.encRaw 3 4)] } : State).hostWords =
      encode (.encRaw 1 2) :: encode (.encRaw 3 4) :: [] := by decide
theorem witness_DecClearsResultsAndStarts : State.reset.decSt = .idle := rfl
theorem witness_AwaitHeaderStep :
    ((decoding [] 0).turns = .decoder :: [] ∧ (decoding [] 0).decSt = .awaitHeader ∧ (decoding [] 0).decLen = 0) ∧
    ((decoding [(0, ⟨.on, 1600⟩)] 1).turns = .decoder :: [] ∧ (decoding [(0, ⟨.on, 1600⟩)] 1).decSt = .awaitHeader ∧
      (decoding [(0, ⟨.on, 1600⟩)] 1).decLen ≠ 0 ∧
      (capRead Config.hw (withTurns (decoding [(0, ⟨.on, 1600⟩)] 1) []) 0).isSome = true) := by decide

/-- A decode that has classified `i` slots. -/
def atSlot (m : Memory) (n : BitVec 16) (i : BitVec 6) : State :=
  { decoding m n with decSt := .readBits, decIdx := i }

theorem witness_ReadBitsStep_absent :
    (atSlot [] 40 39).turns = .decoder :: [] ∧ (atSlot [] 40 39).decSt = .readBits ∧
    (atSlot [] 40 39).decIdx.toNat < 40 ∧ (atSlot [] 40 39).decLen.toNat ≤ (atSlot [] 40 39).decIdx.toNat + 1 := by
  decide
theorem witness_ReadBitsStep_present :
    (atSlot [(40, ⟨.on, 800⟩)] 41 39).turns = .decoder :: [] ∧ (atSlot [(40, ⟨.on, 800⟩)] 41 39).decSt = .readBits ∧
    (atSlot [(40, ⟨.on, 800⟩)] 41 39).decIdx.toNat < 40 ∧
    (atSlot [(40, ⟨.on, 800⟩)] 41 39).decIdx.toNat + 1 < (atSlot [(40, ⟨.on, 800⟩)] 41 39).decLen.toNat ∧
    (capRead Config.hw (withTurns (atSlot [(40, ⟨.on, 800⟩)] 41 39) []) 40).isSome = true := by decide
theorem witness_DoneStepWritesTheResult :
    ({ decoding [] 42 with decSt := .done, decIdx := 40 } : State).turns = .decoder :: [] ∧
    ({ decoding [] 42 with decSt := .done, decIdx := 40 } : State).decSt = .done := by decide
theorem witness_FailedDecodeRecord :
    (atSlot [] 40 39).turns = .decoder :: [] ∧ (atSlot [] 40 39).decSt ≠ .idle ∧
    nextIs (step (atSlot [] 40 39)) (fun u => u.decSt = .idle ∧ u.decOk = false) = true := by decide
theorem witness_DecodeRecoversAnyFrame :
    ({ State.reset with cap := captureOf 0xAEAA123403, hostWords := [encode (.dec 42)] } : State).decSt = .idle ∧
    ({ State.reset with cap := captureOf 0xAEAA123403, hostWords := [encode (.dec 42)] } : State).hostWords =
      encode (.dec 42) :: [] ∧
    (∀ k < 42, capGet (captureOf 0xAEAA123403) k = (frameTokens Config.hw 0xAEAA123403)[k]?) ∧
    .reset ∉ List.replicate 41 Turn.decoder ∧ (List.replicate 41 Turn.decoder).count .decoder = 41 := by decide +kernel
theorem witness_DecodeRecoversAnyFrame_no_capture_write (i : BitVec 16) (l : Level) (d : PortDur) :
    .capWrite i l d ∉ List.replicate 41 Turn.decoder := by
  simp
theorem witness_RoundTripInEveryLegalConfiguration :
    Config.hw.legal = true ∧ Config.hw.hasProtocolConstants = true ∧ Config.hw.bandsHoldNominal = true ∧
    (∀ k < 42, capGet (captureOf (frameTW Config.hw 0xFF 0xFF)) k =
      (frameTokens Config.hw (frameTW Config.hw 0xFF 0xFF))[k]?) := by decide +kernel
theorem witness_DecodeTerminates :
    (decoding (captureOf 0) 42).decSt = .awaitHeader ∧ (decoding (captureOf 0) 42).decIdx = 0 ∧
    ∀ i < (decoding (captureOf 0) 42).decLen.toNat, capGet (decoding (captureOf 0) 42).cap i ≠ none := by decide +kernel
theorem witness_DecodeReadsEntriesInOrderOnce :
    nextIs (decoderRun Config.hw 42 (decoding (captureOf 0) 41)) (fun u => u.decOk = true) = true ∧
    nextIs (decoderRun Config.hw 42 (decoding [] 0)) (fun u => u.decErr = .malformedHeader) = true ∧
    nextIs (decoderRun Config.hw 42 (decoding (captureOf 0) 31)) (fun u => u.decErr = .truncatedFrame) = true ∧
    nextIs (decoderRun Config.hw 42 (decoding (capPut (captureOf 0) 5 ⟨.off, 1600⟩) 42))
      (fun u => u.decErr = .ambiguousTiming) = true := by decide +kernel
theorem witness_EntriesAfterSlot39DoNotMatter :
    (decoding (captureOf 0) 42).decSt = .awaitHeader ∧ (decoding (captureOf 0) 42).decIdx = 0 ∧
    (decoding (captureOf 0) 42).overwritten = [] ∧
    (∀ i ≤ 40, capGet (capPut (captureOf 0) 41 ⟨.on, 7⟩) i = capGet (decoding (captureOf 0) 42).cap i) ∧
    nextIs (decoderRun Config.hw 1 (decoding (captureOf 0) 42)) (fun _ => true) = true := by decide +kernel
theorem witness_EntriesAfterSlot39DoNotMatter_fault :
    decoderRun Config.hw 1 (decoding [] 42) = .fault (.unwrittenCapture 0) := rfl
theorem witness_CaptureWriteReplacesOneEntry :
    (({ State.reset with turns := [.capWrite 63 .on 1600] } : State).turns = .capWrite 63 .on 1600 :: [] ∧
      (63 : BitVec 16).toNat < 64 ∧ State.reset.decSt = .idle) ∧
    (({ State.reset with turns := [.capWrite 64 .on 1600] } : State).turns = .capWrite 64 .on 1600 :: [] ∧
      64 ≤ (64 : BitVec 16).toNat) := by decide
theorem witness_RaceReadGivesOldOrNewValue :
    (decoding [(3, ⟨.on, 400⟩)] 42).decSt ≠ .idle ∧ (decoding [(3, ⟨.on, 400⟩)] 42).overwritten = [] ∧
    capGet (decoding [(3, ⟨.on, 400⟩)] 42).cap 3 = some ⟨.on, 400⟩ ∧
    (capRead Config.hw ([((3 : BitVec 16), (⟨.on, 800⟩ : PulseSegment))].foldl
      (fun u e => capWrite Config.hw u e.1 e.2) (decoding [(3, ⟨.on, 400⟩)] 42)) 3).isSome = true ∧
    (capRead Config.hw ([((4 : BitVec 16), (⟨.on, 800⟩ : PulseSegment))].foldl
      (fun u e => capWrite Config.hw u e.1 e.2) (decoding [(3, ⟨.on, 400⟩)] 42)) 3).isSome = true := by decide
theorem witness_UnwrittenEntryReadFaults :
    ((decoding [] 1).turns = .decoder :: [] ∧ (decoding [] 1).overwritten = [] ∧ (decoding [] 1).decLen ≠ 0 ∧
      (decoding [] 1).decSt = .awaitHeader ∧ capGet (decoding [] 1).cap 0 = none) ∧
    ((atSlot [] 42 39).turns = .decoder :: [] ∧ (atSlot [] 42 39).overwritten = [] ∧ (atSlot [] 42 39).decSt = .readBits ∧
      (atSlot [] 42 39).decIdx.toNat + 1 < (atSlot [] 42 39).decLen.toNat ∧ capGet (atSlot [] 42 39).cap 40 = none) := by
  decide
theorem witness_ResetClearsAllButCapAndEmitted :
    ({ busyEncoder 0 with turns := [.reset] } : State).turns = .reset :: [] := by decide
theorem witness_InvariantKeptByEveryStep :
    MachineInv (presenting 0) ∧ nextIs (step (presenting 0)) (fun _ => true) = true := by
  refine ⟨⟨?_, ?_, ?_, ?_, ?_⟩, ?_⟩ <;> (try simp only [EncoderInv, DecoderInv, ResultInv, CaptureInv, EmittedInv]) <;> decide
theorem witness_SequencingInvariantsOfReachableStates :
    nextIs (runSteps 2 { State.reset with turns := [.present, .encoder], hostWords := [encode (.encTw 1 2)] })
      (fun s => s.encSt = .slot) = true := by decide
theorem witness_ResultsReadZeroDuringDecode :
    MachineInv (decoding [(0, ⟨.on, 1600⟩)] 42) ∧ (decoding [(0, ⟨.on, 1600⟩)] 42).decSt ≠ .idle := by
  refine ⟨⟨?_, ?_, ?_, ?_, ?_⟩, ?_⟩ <;> (try simp only [EncoderInv, DecoderInv, ResultInv, CaptureInv, EmittedInv]) <;> decide
theorem witness_ResultsStayUntilNextDecode :
    (presenting (encode (.cksum 1 2))).decSt = .idle ∧ (presenting (encode (.cksum 1 2))).turns.head? ≠ some .reset ∧
    nextIs (step (presenting (encode (.cksum 1 2)))) (fun t => t.decSt = .idle) = true := by decide
theorem witness_CmdErrIsSticky :
    ((presenting 1).turns = .present :: [] ∧ (presenting 1).hostWords = 1 :: [] ∧ legalWord 1 = false ∧
      nextIs (step (presenting 1)) (fun _ => true) = true) ∧
    (({ presenting 0 with cmdErr := true } : State).turns.head? ≠ some .reset ∧
      nextIs (step { presenting 0 with cmdErr := true }) (fun _ => true) = true) ∧
    nextIs (step { State.reset with cmdErr := true, turns := [.reset] }) (fun _ => true) = true ∧
    ((presenting 1).cmdErr = false ∧ nextIs (step (presenting 1)) (fun t => t.cmdErr = true) = true) := by decide
theorem witness_EmittedGrowsOnlyByEncoderTokens :
    nextIs (step { State.reset with encSt := .hdr, turns := [.encoder] }) (fun t => t.emitted ≠ []) = true := by decide
theorem witness_UnitStepsTouchOnlyTheirOwnState :
    nextIs (step { State.reset with encSt := .hdr, turns := [.encoder] }) (fun _ => true) = true ∧
    nextIs (step (decoding [] 0)) (fun _ => true) = true := by decide
theorem witness_OnlyUnwrittenReadsStopTheMachine :
    step (decoding [] 42) = .fault (.unwrittenCapture 0) := rfl
theorem witness_QuiescentStateHolds :
    (State.reset.encSt = .idle ∧ State.reset.decSt = .idle ∧ State.reset.turns = []) ∧
    ({ State.reset with turns := [.decoder] } : State).turns = .decoder :: [] ∧
    ({ State.reset with turns := [.encoder] } : State).turns = .encoder :: [] := by decide
theorem witness_PulseSegmentPacking :
    (1600 : Nat) < 2 ^ Config.hw.durW ∧ (65535 : Nat) < 2 ^ Config.hw.durW := by decide
theorem witness_ClassifyByToleranceWindow : Config.hw.legal = true := by decide
theorem witness_ConfigurationOfThisHardware : (0 : Nat) ≤ 33 ∧ (33 : Nat) ≤ 33 := by decide
theorem witness_ObservationOfAnEndedRunIsFinal :
    runOver State.reset ∧ runOver { State.reset with ckRes := 3, turns := [.present, .encoder, .decoder] } := by
  refine ⟨⟨⟨?_, ?_⟩, ?_, ?_⟩, ⟨?_, ?_⟩, ?_, ?_⟩ <;> decide

end Sys2Proof.Tests
end

/-! SUPPORT. Everything one turn can do, said once: a turn that answers a next state has one of the effects below, and
every fact that steps keep is a case analysis over them. -/

namespace Sys2Proof.Machine

/-- The state with `n` free values drawn so far: all that a CapRead may change (20_memory.md R80). -/
def withFreeCount (s : State) (n : Nat) : State :=
  { s with freeCount := n }

theorem capRead_withFreeCount {c : Config} {s u : State} {i : Nat} {p : PulseSegment}
    (h : capRead c s i = some (p, u)) : u = withFreeCount s u.freeCount :=
  capRead_state h

/-- One classified bit taken into the accumulator, the third outcome of `takeSlot` (43_decoder.md R205). -/
def takeBit (c : Config) (s : State) (b : Bool) : State :=
  { s with
    decAcc := shiftIn s.decAcc b
    decIdx := s.decIdx + 1
    decSt := if s.decIdx.toNat + 1 = c.frameBits then .done else .readBits }

/-- The effects of a turn, each with the condition it needs. A decoder's read may draw a free value, hence `n`. -/
inductive TurnEffect (s : State) : Turn → State → Prop
  | presentsNothing (h : s.hostWords = []) : TurnEffect s .present s
  | isHeld (h : s.hostWords ≠ []) : TurnEffect s .present s
  | acceptsNop : TurnEffect s .present (acceptWord s)
  | startsEncode (f : Frame) (h : s.encSt = .idle) : TurnEffect s .present (startEncode (acceptWord s) f)
  | startsDecode (n : BitVec 16) (h : s.decSt = .idle) :
      TurnEffect s .present (startDecode Config.hw (acceptWord s) n)
  | writesChecksum (v : BitVec 4) : TurnEffect s .present (setCkRes (acceptWord s) v)
  | recordsIllegal {w : CmdWord} {ws : List CmdWord} {why : IllegalWord} (hw : s.hostWords = w :: ws)
      (hd : decode w = .illegal why) : TurnEffect s .present (commandError (acceptWord s))
  | readsRegister (addr : BitVec 4) : TurnEffect s (.read addr) (logRead s addr)
  | writesCapture (i : BitVec 16) (l : Level) (d : PortDur) :
      TurnEffect s (.capWrite i l d) (capWrite Config.hw s i ⟨l, d.toNat⟩)
  | encoderIdle (h : s.encSt = .idle) : TurnEffect s .encoder s
  | emitsHeader (h : s.encSt = .hdr) : TurnEffect s .encoder (headerStep Config.hw s)
  | emitsSlot (h : s.encSt = .slot) : TurnEffect s .encoder (slotStep Config.hw s)
  | emitsTrailer (h : s.encSt = .trl) : TurnEffect s .encoder (trailerStep Config.hw s)
  | decoderIdle (h : s.decSt = .idle) : TurnEffect s .decoder s
  | failsHeader (n : Nat) (h : s.decSt = .awaitHeader) :
      TurnEffect s .decoder (failDecode (withFreeCount s n) .malformedHeader)
  | findsHeader (n : Nat) (h : s.decSt = .awaitHeader) :
      TurnEffect s .decoder { withFreeCount s n with decSt := .readBits }
  | failsSlot (n : Nat) (code : DecErr) (h : s.decSt = .readBits)
      (hcode : code = .truncatedFrame ∨ code = .ambiguousTiming) :
      TurnEffect s .decoder (failDecode (withFreeCount s n) code)
  | takesBit (n : Nat) (b : Bool) (h : s.decSt = .readBits) :
      TurnEffect s .decoder (takeBit Config.hw (withFreeCount s n) b)
  | finishes (h : s.decSt = .done) : TurnEffect s .decoder (finishDecode Config.hw s)
  | resets : TurnEffect s .reset (resetCore s)

theorem encodeCommand_effect {s : State} (hw : s.hostWords ≠ []) (f : Frame) :
    TurnEffect s .present (encodeCommand f s) := by
  by_cases hi : s.encSt = .idle
  · rw [encodeCommand_of_idle hi]
    exact .startsEncode f hi
  · rw [encodeCommand_of_busy hi]
    exact .isHeld hw

theorem exec_effect {i : Instr} {s u : State} (hw : s.hostWords ≠ []) (h : exec i s = .next u) :
    TurnEffect s .present u := by
  cases i with
  | nop => cases h; exact .acceptsNop
  | encTw t w => cases h; exact encodeCommand_effect hw _
  | encRaw a v => cases h; exact encodeCommand_effect hw _
  | dec n =>
    change execDec n s = .next u at h
    by_cases hi : s.decSt = .idle
    · rw [execDec_of_idle hi] at h
      cases h
      exact .startsDecode n hi
    · rw [execDec_of_busy hi] at h
      cases h
      exact .isHeld hw
  | cksum t w => cases h; exact .writesChecksum _

theorem present_effect {s u : State} (h : present s = .next u) : TurnEffect s .present u := by
  rcases present_cases s with ⟨hw, e⟩ | ⟨w, ws, i, hw, -, e⟩ | ⟨w, ws, why, hw, hd, e⟩ <;> rw [e] at h
  · cases h; exact .presentsNothing hw
  · exact exec_effect (by simp [hw]) h
  · cases h; exact .recordsIllegal hw hd

theorem encoderStep_effect (s : State) : TurnEffect s .encoder (encoderStep Config.hw s) := by
  rcases encoderStep_cases Config.hw s with ⟨h, e⟩ | ⟨h, e⟩ | ⟨h, e⟩ | ⟨h, e⟩ <;> rw [e]
  · exact .encoderIdle h
  · exact .emitsHeader h
  · exact .emitsSlot h
  · exact .emitsTrailer h

theorem awaitHeaderStep_effect {s u : State} (hs : s.decSt = .awaitHeader)
    (h : awaitHeaderStep Config.hw s = .next u) : TurnEffect s .decoder u := by
  rcases awaitHeaderStep_cases h with ⟨-, rfl⟩ | ⟨-, p, v, hr, ⟨-, rfl⟩ | ⟨-, rfl⟩⟩
  · exact .failsHeader s.freeCount hs
  · rw [capRead_withFreeCount hr]
    exact .findsHeader _ hs
  · rw [capRead_withFreeCount hr]
    exact .failsHeader _ hs

theorem takeSlot_effect {s : State} (hs : s.decSt = .readBits) (p : PulseSegment) (n : Nat) :
    TurnEffect s .decoder (takeSlot Config.hw p (withFreeCount s n)) := by
  rcases takeSlot_cases Config.hw p (withFreeCount s n) with e | e | ⟨b, -, -, e⟩ <;> rw [e]
  · exact .failsSlot n _ hs (.inl rfl)
  · exact .failsSlot n _ hs (.inr rfl)
  · exact .takesBit n b hs

theorem readBitsStep_effect {s u : State} (hs : s.decSt = .readBits)
    (h : readBitsStep Config.hw s = .next u) : TurnEffect s .decoder u := by
  rcases readBitsStep_cases h with ⟨-, rfl⟩ | ⟨-, p, v, hr, rfl⟩
  · exact .failsSlot s.freeCount _ hs (.inl rfl)
  · rw [capRead_withFreeCount hr]
    exact takeSlot_effect hs p _

theorem decoderStep_effect {s u : State} (h : decoderStep Config.hw s = .next u) : TurnEffect s .decoder u := by
  rcases decoderStep_cases hw_legal s with ⟨hs, e⟩ | ⟨hs, e⟩ | ⟨hs, e⟩ | ⟨hs, e⟩ <;> rw [e] at h
  · cases h; exact .decoderIdle hs
  · exact awaitHeaderStep_effect hs h
  · exact readBitsStep_effect hs h
  · cases h; exact .finishes hs

/-- Everything a turn that answers a next state can do. -/
theorem takeTurn_effect {t : Turn} {s u : State} (h : takeTurn t s = .next u) : TurnEffect s t u := by
  cases t with
  | present => exact present_effect h
  | read a => cases h; exact .readsRegister a
  | capWrite i l d => cases h; exact .writesCapture i l d
  | encoder => cases h; exact encoderStep_effect s
  | decoder => exact decoderStep_effect h
  | reset => cases h; exact .resets

/-- Everything a step can do: nothing with no turn left, else the effect of the turn at the head of the schedule. -/
theorem step_effect {s u : State} (h : step s = .next u) :
    (s.turns = [] ∧ u = s) ∨ ∃ t ts, s.turns = t :: ts ∧ TurnEffect (endTurn s) t u := by
  cases ht : s.turns with
  | nil =>
    rw [step_of_no_turn ht] at h
    cases h
    exact .inl ⟨rfl, rfl⟩
  | cons t ts =>
    rw [step_of_turn ht] at h
    exact .inr ⟨t, ts, rfl, takeTurn_effect h⟩

/-- What the end of a turn and every effect keep, every step keeps. -/
theorem step_keeps {P : State → Prop} (hend : ∀ s, P s → P (endTurn s))
    (heff : ∀ s t u, P s → TurnEffect s t u → P u) {s u : State} (hs : P s) (h : step s = .next u) : P u := by
  rcases step_effect h with ⟨-, rfl⟩ | ⟨t, ts, -, he⟩
  · exact hs
  · exact heff _ t u (hend s hs) he

/-- What every step keeps holds at the end of a run that begins with it. -/
theorem runSteps_keeps {P : State → Prop} (hstep : ∀ s u, P s → step s = .next u → P u)
    {k : Nat} {s u : State} (hs : P s) (h : runSteps k s = .next u) : P u := by
  induction k generalizing s with
  | zero => cases h; exact hs
  | succ k ih =>
    cases hv : step s with
    | next v => exact ih (hstep s v hs hv) (by simpa [runSteps, hv] using h)
    | fault r => simp [runSteps, hv] at h
    | refused r => simp [runSteps, hv] at h

end Sys2Proof.Machine

/-! PROOF. The sequencing invariants of 10_state.md R29. -/

namespace Sys2Proof.Machine

theorem EncoderInv.of_hdr {s : State} (hst : s.encSt = .hdr) (hidx : s.encIdx = 0) : EncoderInv s := by
  simp [EncoderInv, hst, hidx]

theorem EncoderInv.of_idle {s : State} (hst : s.encSt = .idle) (hidx : s.encIdx.toNat ≤ 40) : EncoderInv s := by
  simp [EncoderInv, hst, hidx]

/-- The header step leaves ENC_IDX at 0 (42_encoder.md R163). -/
theorem EncoderInv.after_headerStep {s : State} (h : EncoderInv s) (hst : s.encSt = .hdr) :
    EncoderInv (headerStep Config.hw s) := by
  obtain ⟨-, -, hhdr, -⟩ := h
  simp [EncoderInv, headerStep, hhdr hst]

/-- A 6-bit slot index below 40 counts up without wrapping (10_state.md R24, R27). -/
theorem toNat_slotIndex_succ {i : BitVec 6} (h : i.toNat < 40) : (i + 1).toNat = i.toNat + 1 := by
  simp only [BitVec.toNat_add, BitVec.reduceToNat]
  omega

/-- The slot step counts ENC_IDX up, and leaves SLOT exactly at 40 (42_encoder.md R164). -/
theorem EncoderInv.after_slotStep {s : State} (h : EncoderInv s) (hst : s.encSt = .slot) :
    EncoderInv (slotStep Config.hw s) := by
  obtain ⟨-, -, -, hslot⟩ := h
  have hlt := hslot hst
  have hidx : (slotStep Config.hw s).encIdx.toNat = s.encIdx.toNat + 1 := toNat_slotIndex_succ hlt
  by_cases hlast : s.encIdx.toNat + 1 = 40
  · have hnext : (slotStep Config.hw s).encSt = .trl := if_pos hlast
    exact ⟨by omega, fun _ => by omega, by simp [hnext], by simp [hnext]⟩
  · have hnext : (slotStep Config.hw s).encSt = .slot := if_neg hlast
    exact ⟨by omega, by simp [hnext], by simp [hnext], fun _ => by omega⟩

/-- Every turn keeps the encoder's part of R29: no other agent but the port, on acceptance, and reset touch it. -/
theorem EncoderInv.of_effect {s u : State} {t : Turn} (h : EncoderInv s) (he : TurnEffect s t u) : EncoderInv u := by
  cases he with
  | startsEncode f hi => exact .of_hdr rfl rfl
  | emitsHeader hst => exact h.after_headerStep hst
  | emitsSlot hst => exact h.after_slotStep hst
  | emitsTrailer hst => exact .of_idle rfl h.1
  | resets => exact .of_idle rfl (Nat.zero_le 40)
  | writesCapture i l d => rw [capWrite_state]; exact h
  | _ => exact h

/-- The effective length of a decode stays within the capture buffer (43_decoder.md R201). -/
theorem toNat_effectiveLen_le (c : Config) (n : BitVec 16) : (effectiveLen c n).toNat ≤ c.capDepth := by
  rw [effectiveLen, BitVec.toNat_ofNat]
  exact (Nat.mod_le _ _).trans (Nat.min_le_right _ _)

theorem DecoderInv.after_startDecode (s : State) (n : BitVec 16) : DecoderInv (startDecode Config.hw s n) := by
  have hlen := toNat_effectiveLen_le Config.hw n
  simpa [DecoderInv] using hlen

/-- A decoder that stops keeps its hidden registers, and an IDLE one need satisfy no more than their bounds. -/
theorem DecoderInv.idle_of_same {s u : State} (h : DecoderInv s) (hst : u.decSt = .idle) (hidx : u.decIdx = s.decIdx)
    (hacc : u.decAcc = s.decAcc) (hlen : u.decLen = s.decLen) : DecoderInv u := by
  obtain ⟨hle, -, -, -, hlt, hcap⟩ := h
  simp only [DecoderInv, hst, hidx, hacc, hlen]
  exact ⟨hle, nofun, nofun, nofun, hlt, hcap⟩

theorem DecoderInv.after_header {s : State} (h : DecoderInv s) (hst : s.decSt = .awaitHeader) (n : Nat) :
    DecoderInv { withFreeCount s n with decSt := .readBits } := by
  obtain ⟨hle, -, -, hawait, hacc, hcap⟩ := h
  obtain ⟨hidx, -⟩ := hawait hst
  have hlt : s.decIdx.toNat < 40 := by simp [hidx]
  exact ⟨hle, nofun, fun _ => hlt, nofun, hacc, hcap⟩

/-- One bit more keeps the accumulator below 2^DEC_IDX (43_decoder.md R205, R207). -/
theorem toNat_shiftIn_lt {acc : Frame} {k : Nat} (h : acc.toNat < 2 ^ k) (b : Bool) :
    (shiftIn acc b).toNat < 2 ^ (k + 1) := by
  have hb := Bool.toNat_lt b
  have hmod := Nat.mod_le (2 * acc.toNat + b.toNat) 1099511627776
  rw [toNat_shiftIn, Nat.pow_succ]
  omega

/-- A bit taken counts DEC_IDX up, and leaves READ_BITS exactly at 40 (43_decoder.md R205). -/
theorem DecoderInv.after_takeBit {s : State} (h : DecoderInv s) (hst : s.decSt = .readBits) (b : Bool) :
    DecoderInv (takeBit Config.hw s b) := by
  obtain ⟨-, -, hread, -, hacc, hcap⟩ := h
  have hlt := hread hst
  have hidx : (takeBit Config.hw s b).decIdx.toNat = s.decIdx.toNat + 1 := toNat_slotIndex_succ hlt
  have hshift : (takeBit Config.hw s b).decAcc.toNat < 2 ^ (takeBit Config.hw s b).decIdx.toNat := by
    rw [hidx]
    exact toNat_shiftIn_lt hacc b
  by_cases hlast : s.decIdx.toNat + 1 = 40
  · have hnext : (takeBit Config.hw s b).decSt = .done := if_pos hlast
    exact ⟨by omega, fun _ => by omega, by simp [hnext], by simp [hnext], hshift, hcap⟩
  · have hnext : (takeBit Config.hw s b).decSt = .readBits := if_neg hlast
    exact ⟨by omega, by simp [hnext], fun _ => by omega, by simp [hnext], hshift, hcap⟩

/-- Every turn keeps the decoder's part of R29. -/
theorem DecoderInv.of_effect {s u : State} {t : Turn} (h : DecoderInv s) (he : TurnEffect s t u) : DecoderInv u := by
  cases he with
  | startsDecode n hi => exact .after_startDecode _ n
  | failsHeader n hst => exact h.idle_of_same rfl rfl rfl rfl
  | findsHeader n hst => exact h.after_header hst n
  | failsSlot n code hst hcode => exact h.idle_of_same rfl rfl rfl rfl
  | takesBit n b hst => exact DecoderInv.after_takeBit (s := withFreeCount s n) h hst b
  | finishes hst => exact h.idle_of_same rfl rfl rfl rfl
  | resets => simp [DecoderInv, resetCore]
  | writesCapture i l d => rw [capWrite_state]; exact h
  | _ => exact h

theorem step_keeps_encoderInv {s u : State} (hs : EncoderInv s) (h : step s = .next u) : EncoderInv u :=
  step_keeps (fun _ hv => hv) (fun _ _ _ hv he => hv.of_effect he) hs h

theorem step_keeps_decoderInv {s u : State} (hs : DecoderInv s) (h : step s = .next u) : DecoderInv u :=
  step_keeps (fun _ hv => hv) (fun _ _ _ hv he => hv.of_effect he) hs h

/-- After power-on, whatever the HOST has to present and whatever the schedule. -/
theorem encoderInv_powerOn (ts : List Turn) (ws : List CmdWord) :
    EncoderInv { State.reset with turns := ts, hostWords := ws } :=
  .of_idle rfl (Nat.zero_le 40)

theorem decoderInv_powerOn (ts : List Turn) (ws : List CmdWord) :
    DecoderInv { State.reset with turns := ts, hostWords := ws } := by
  simp [DecoderInv, State.reset]

/-- Under the decoder's invariant DONE is the one busy state in which 40 slots are classified (10_state.md R29). -/
theorem DecoderInv.done_iff {s : State} (h : DecoderInv s) :
    s.decSt = .done ↔ s.decSt ≠ .idle ∧ s.decIdx.toNat = 40 := by
  obtain ⟨-, hdone, hread, hawait, -, -⟩ := h
  cases hst : s.decSt with
  | idle => simp
  | awaitHeader => simp [(hawait hst).1]
  | readBits => simp [(hread hst).ne]
  | done => simp [hdone hst]

end Sys2Proof.Machine

namespace Sys2Proof

open Machine

/-- Settles O49: both units' invariants hold after power-on and every step keeps them, so every run ends with them. -/
theorem sequencingInvariantsOfReachableStates : Obligations.SequencingInvariantsOfReachableStates := by
  unfold Obligations.SequencingInvariantsOfReachableStates
  intro ts ws k t hrun
  have henc : EncoderInv t := runSteps_keeps (fun _ _ => step_keeps_encoderInv) (encoderInv_powerOn ts ws) hrun
  have hdec : DecoderInv t := runSteps_keeps (fun _ _ => step_keeps_decoderInv) (decoderInv_powerOn ts ws) hrun
  have hdone := hdec.done_iff
  obtain ⟨hencLe, htrl, hhdr, -⟩ := henc
  obtain ⟨hdecLe, -, -, hawait, hacc, -⟩ := hdec
  refine ⟨hencLe, htrl, fun hst => ?_, hdecLe, hdone, fun hst => ?_, hacc⟩
  · simp [hhdr hst]
  · simp [hawait hst]

end Sys2Proof

/-! PROOF. The legality of a command word and the sticky CMD_ERR (30_encoding.md R98, 10_state.md R44). -/

namespace Sys2Proof

/-- Masking off the low `k` bits compares the bits above them. -/
theorem and_highMask_eq_iff (w p : CmdWord) (k : Nat) :
    w &&& (BitVec.allOnes 64 <<< k) = p ↔ w.toNat / 2 ^ k * 2 ^ k = p.toNat := by
  have hlt : w.toNat / 2 ^ k * 2 ^ k < 2 ^ 64 := (Nat.div_mul_le_self _ _).trans_lt w.isLt
  rw [← BitVec.shiftLeft_ushiftRight, ← BitVec.toNat_inj, BitVec.toNat_shiftLeft, BitVec.toNat_ushiftRight,
    Nat.shiftRight_eq_div_pow, Nat.shiftLeft_eq, Nat.mod_eq_of_lt hlt]

/-- A row whose mask is all bits from `k` up matches the words that have the pattern's bits there. -/
theorem selects_iff_of_highMask {r : OpcodeRow} (k : Nat) (hk : r.mask = BitVec.allOnes 64 <<< k) (h0 : r.mask ≠ 0)
    (w : CmdWord) : r.selects w = true ↔ w.toNat / 2 ^ k * 2 ^ k = r.pattern.toNat := by
  rw [OpcodeRow.selects, Bool.and_eq_true, bne_iff_ne, beq_iff_eq, and_iff_right h0, hk, and_highMask_eq_iff]

/-- A word is legal exactly if it decodes to a command, row by row of the opcode map (30_encoding.md R97, R98). -/
theorem legalWord_iff_decodes (w : CmdWord) : legalWord w = true ↔ ∃ i, decode w = .instr i := by
  simp only [decode_eq_instr_iff, exists_or, exists_and_left, exists_eq', and_true]
  simp only [← BitVec.toNat_inj, toNat_opField, toNat_reservedZ, toNat_reservedTW, toNat_reservedRAW]
  simp only [legalWord, opcodeMap, List.any_cons, List.any_nil, Bool.or_false, Bool.or_eq_true]
  refine or_congr ?nop (or_congr ?encTw (or_congr ?encRaw (or_congr ?dec ?cksum)))
  case nop =>
    rw [selects_iff_of_highMask 0 (by decide) (by decide)]
    simp only [BitVec.reduceToNat]
    omega
  case encRaw =>
    rw [selects_iff_of_highMask 40 (by decide) (by decide)]
    simp only [BitVec.reduceToNat]
    omega
  case encTw | dec | cksum =>
    rw [selects_iff_of_highMask 16 (by decide) (by decide)]
    simp only [BitVec.reduceToNat]
    omega

/-- A word is illegal exactly if the port's decoder says so, with either reason (30_encoding.md R99). -/
theorem not_legalWord_iff_decode_illegal (w : CmdWord) : legalWord w = false ↔ ∃ why, decode w = .illegal why := by
  rw [← Bool.not_eq_true, legalWord_iff_decodes]
  cases decode w <;> simp

end Sys2Proof

namespace Sys2Proof.Machine

/-- Presenting an illegal word records it (40_port.md R122). -/
theorem present_of_illegal {s : State} {w : CmdWord} {ws : List CmdWord} (hw : s.hostWords = w :: ws)
    (hl : legalWord w = false) : present s = illegalCommand s := by
  obtain ⟨why, hd⟩ := (not_legalWord_iff_decode_illegal w).mp hl
  simp [present, hw, hd]

/-- What each turn does to CMD_ERR: reset clears it, an illegal word sets it, all else keeps it (10_state.md R44). -/
theorem TurnEffect.cmdErr_cases {s u : State} {t : Turn} (he : TurnEffect s t u) :
    (t = .reset ∧ u.cmdErr = false) ∨
    (t = .present ∧ (∃ w ws, s.hostWords = w :: ws ∧ legalWord w = false) ∧ u.cmdErr = true) ∨
    (t ≠ .reset ∧ u.cmdErr = s.cmdErr) := by
  cases he with
  | resets => exact .inl ⟨rfl, rfl⟩
  | recordsIllegal hw hd => exact .inr (.inl ⟨rfl, ⟨_, _, hw, (not_legalWord_iff_decode_illegal _).mpr ⟨_, hd⟩⟩, rfl⟩)
  | writesCapture i l d => rw [capWrite_state]; exact .inr (.inr ⟨nofun, rfl⟩)
  | _ => exact .inr (.inr ⟨nofun, rfl⟩)

/-- `TurnEffect.cmdErr_cases` of a step, in the terms of the state it starts from. -/
theorem step_cmdErr_cases {s u : State} (h : step s = .next u) :
    (s.turns.head? = some .reset ∧ u.cmdErr = false) ∨
    (s.turns.head? = some .present ∧ (∃ w ws, s.hostWords = w :: ws ∧ legalWord w = false) ∧ u.cmdErr = true) ∨
    (s.turns.head? ≠ some .reset ∧ u.cmdErr = s.cmdErr) := by
  rcases step_effect h with ⟨hts, rfl⟩ | ⟨t, ts, hts, he⟩
  · exact .inr (.inr ⟨by simp [hts], rfl⟩)
  · simpa [hts] using he.cmdErr_cases

end Sys2Proof.Machine

namespace Sys2Proof

open Machine

/-- Settles O52: the illegal word's own rule, and for the other clauses the three things a step can do to CMD_ERR. -/
theorem cmdErrIsSticky : Obligations.CmdErrIsSticky := by
  unfold Obligations.CmdErrIsSticky
  refine ⟨fun s t ts w ws hts hw hl h => ?sets, fun s t hset hne h => ?keeps, fun s t hreset h => ?clears,
    fun s t hclear hset h => ?only⟩
  case sets =>
    rw [step_of_turn hts, takeTurn, present_of_illegal (by simpa using hw) hl] at h
    cases h
    rfl
  case keeps =>
    rcases step_cmdErr_cases h with ⟨hreset, -⟩ | ⟨-, -, ht⟩ | ⟨-, hsame⟩
    · exact absurd hreset hne
    · exact ht
    · rw [hsame, hset]
  case clears =>
    rcases step_cmdErr_cases h with ⟨-, ht⟩ | ⟨hpresent, -, -⟩ | ⟨hne, -⟩
    · exact ht
    · simp [hreset] at hpresent
    · exact absurd hreset hne
  case only =>
    rcases step_cmdErr_cases h with ⟨-, ht⟩ | ⟨hpresent, hill, -⟩ | ⟨-, hsame⟩
    · simp [ht] at hset
    · exact ⟨hpresent, hill⟩
    · simp [hsame, hclear] at hset

end Sys2Proof

/-! PROOF. Legal words by row, by opcode and reserved bits, and by the port's decoder (30_encoding.md R98). -/

namespace Sys2Proof

/-- R98's pseudocode over the rows' match and mask columns. -/
theorem legalWord_iff_exists_row (w : CmdWord) :
    legalWord w = true ↔
      ∃ r ∈ opcodeMap.map fun r => (r.pattern, r.mask), r.2 ≠ 0 ∧ w &&& r.2 = r.1 := by
  simp [legalWord, OpcodeRow.selects]

/-- A word decodes exactly if its opcode is assigned and the reserved bits of that opcode's format are 0. -/
theorem decodes_iff_reserved_zero (w : CmdWord) :
    (∃ i, decode w = .instr i) ↔
      ((opField w).toNat = 0 ∧ reservedZ w = 0) ∨
      ((opField w).toNat = 1 ∧ reservedTW w = 0) ∨
      ((opField w).toNat = 2 ∧ reservedRAW w = 0) ∨
      ((opField w).toNat = 3 ∧ reservedTW w = 0) ∨
      ((opField w).toNat = 4 ∧ reservedTW w = 0) := by
  simp only [decode_eq_instr_iff, exists_or, exists_and_left, exists_eq', and_true]

/-- Settles O3: the three readings of R98, each tied to the opcode map or to the port's decoder. -/
theorem legalWordsAreThoseThatDecode : Obligations.LegalWordsAreThoseThatDecode := by
  unfold Obligations.LegalWordsAreThoseThatDecode
  refine fun w => ⟨(legalWord_iff_decodes w).symm, legalWord_iff_exists_row w, ?opAndReserved⟩
  case opAndReserved =>
    rw [legalWord_iff_decodes, decodes_iff_reserved_zero]
    simp only [← BitVec.toNat_inj, toNat_opField, toNat_reservedZ, toNat_reservedTW, toNat_reservedRAW,
      BitVec.ofNat_eq_ofNat, BitVec.toNat_ofNat, Nat.zero_mod, Nat.reducePow]

end Sys2Proof

/-! PROOF. The illegal word and the capture write at the ports (40_port.md R122, R131). -/

namespace Sys2Proof.Machine

/-- Taking a turn off the schedule is all that `endTurn` does. -/
theorem endTurn_of_turns {s : State} {t : Turn} {ts : List Turn} (h : s.turns = t :: ts) :
    endTurn s = withTurns s ts := by
  simp [endTurn, withTurns, h]

/-- What recording an illegal word leaves, in terms of the words the HOST still has. -/
theorem illegalCommand_of_hostWords {s : State} {w : CmdWord} {ws : List CmdWord} (h : s.hostWords = w :: ws) :
    illegalCommand s = .next { s with hostWords := ws, cmdErr := true } := by
  simp [illegalCommand, commandError, acceptWord, h]

/-- A capture write's turn is CapWrite, in the state without that turn. -/
theorem step_of_capWrite_turn {s : State} {ts : List Turn} {i : BitVec 16} {l : Level} {d : PortDur}
    (h : s.turns = .capWrite i l d :: ts) :
    step s = .next (capWrite Config.hw (withTurns s ts) i ⟨l, d.toNat⟩) := by
  rw [step_of_turn h, endTurn_of_turns h]
  rfl

/-- CapWrite below CAP_DEPTH replaces its own entry and no other (20_memory.md R70). -/
theorem capGet_capWrite_of_lt {c : Config} {s : State} {i : BitVec 16} {p : PulseSegment} (h : i.toNat < c.capDepth)
    (j : Nat) : capGet (capWrite c s i p).cap j = if j = i.toNat then some p else capGet s.cap j := by
  rw [capWrite_cap_of_lt h, capGet_capPut]

/-- With no decode running CapWrite records no race (20_memory.md R80). -/
theorem capWrite_overwritten_of_idle {c : Config} {s : State} {i : BitVec 16} {p : PulseSegment}
    (h : s.decSt = .idle) : (capWrite c s i p).overwritten = s.overwritten := by
  by_cases hi : i.toNat < c.capDepth
  · rw [capWrite_overwritten_of_lt hi]
    simp [decBusy, h]
  · rw [capWrite_of_ge (Nat.le_of_not_lt hi)]

end Sys2Proof.Machine

namespace Sys2Proof

open Machine

/-- Settles O9: presenting an illegal word records it whatever the units do; the two examples match no
row of the opcode map. -/
theorem illegalWordSetsOnlyCmdErr : Obligations.IllegalWordSetsOnlyCmdErr := by
  unfold Obligations.IllegalWordSetsOnlyCmdErr
  refine ⟨fun s ts w ws hts hw hl => ?step, by decide, by decide⟩
  case step =>
    have hw' : (withTurns s ts).hostWords = w :: ws := hw
    calc step s
      _ = present (withTurns s ts) := by rw [step_of_turn hts, endTurn_of_turns hts, takeTurn]
      _ = illegalCommand (withTurns s ts) := present_of_illegal hw' hl
      _ = .next { withTurns s ts with hostWords := ws, cmdErr := true } := illegalCommand_of_hostWords hw'

/-- Settles O42: the step is CapWrite, whose entry, frame and bound are its own lemmas. -/
theorem captureWriteReplacesOneEntry : Obligations.CaptureWriteReplacesOneEntry := by
  unfold Obligations.CaptureWriteReplacesOneEntry
  intro s ts i l d hts
  rw [step_of_capWrite_turn hts]
  refine ⟨fun hlt => ⟨_, rfl, ?frame, ?entries, ?race⟩, fun hge => ?ignored, by decide⟩
  case frame => exact capWrite_state Config.hw (withTurns s ts) i ⟨l, d.toNat⟩
  case entries => exact capGet_capWrite_of_lt hlt
  case race => exact capWrite_overwritten_of_idle (s := withTurns s ts)
  case ignored => exact congrArg _ (capWrite_of_ge hge)

end Sys2Proof

/-! PROOF. The arithmetic of the checksum and the flags its command leaves (41_checksum.md R140, R141, R143). -/

namespace Sys2Proof.Machine

/-- Only the operands' low nibbles reach the sum mod 16, for any offset (R143 (b)). -/
theorem toNat_checksum_lowNibbles (c : Config) (t w : BitVec 8) :
    (checksum c t w).toNat = (c.ckOffset + t.toNat % 16 + w.toNat % 16) % 16 := by
  rw [toNat_checksum]
  omega

/-- R143 (c), for any offset. -/
theorem checksum_comm (c : Config) (t w : BitVec 8) : checksum c t w = checksum c w t := by
  apply BitVec.eq_of_toNat_eq
  rw [toNat_checksum, toNat_checksum, Nat.add_right_comm]

/-- A 4-bit register that starts at the offset and adds the operands with its carries discarded ends at the checksum:
reduction mod 16 commutes with addition (R141). -/
theorem checksum_eq_accumulate (c : Config) (t w : BitVec 8) :
    checksum c t w = BitVec.ofNat 4 c.ckOffset + t.setWidth 4 + w.setWidth 4 := by
  rw [checksum, BitVec.ofNat_add, BitVec.ofNat_add, BitVec.ofNat_toNat, BitVec.ofNat_toNat]

/-- The exact sum never exceeds the offset by more than two bytes (R140). -/
theorem checksum_sum_le (k : Nat) (t w : BitVec 8) : k + t.toNat + w.toNat ≤ k + 510 := by
  have ht : t.toNat < 256 := t.isLt
  have hw : w.toNat < 256 := w.isLt
  omega

/-- The HOST's words are no part of STATUS (10_state.md R37). -/
@[simp] theorem statusWord_acceptWord (s : State) : statusWord (acceptWord s) = statusWord s := rfl

/-- CK_RES is no part of STATUS (10_state.md R37). -/
@[simp] theorem statusWord_setCkRes (s : State) (v : BitVec 4) : statusWord (setCkRes s v) = statusWord s := rfl

/-- CKSUM has one outcome, whatever the units do (R142). -/
theorem exec_cksum (t w : BitVec 8) (s : State) :
    exec (.cksum t w) s = .next (setCkRes (acceptWord s) (checksum Config.hw t w)) := rfl

end Sys2Proof.Machine

namespace Sys2Proof

open Machine

/-- Settles O17: the laws of the sum mod 16, its corner values evaluated, and STATUS across the command's two updates. -/
theorem checksumLaws : Obligations.ChecksumLaws := by
  unfold Obligations.ChecksumLaws
  refine ⟨fun t w => ?range, fun t w => ?lowNibbles, fun t w => ?symmetry, by decide, by decide, by decide,
    fun s t w => ⟨_, exec_cksum t w s, ?status⟩⟩
  case range => exact Nat.le_of_lt_succ (checksum Config.hw t w).isLt
  case lowNibbles => exact toNat_checksum_lowNibbles Config.hw t w
  case symmetry => exact checksum_comm Config.hw t w
  case status => rw [statusWord_setCkRes, statusWord_acceptWord]

/-- Settles O18: the sum as a number, its bound, and the accumulator at this hardware's offset. -/
theorem checksumIsTheSumMod16 : Obligations.ChecksumIsTheSumMod16 := by
  unfold Obligations.ChecksumIsTheSumMod16
  exact fun t w => ⟨toNat_checksum Config.hw t w, checksum_sum_le 0x0D t w, checksum_eq_accumulate Config.hw t w⟩

end Sys2Proof

/-! PROOF. The encoder's turns and the tokens of an accepted frame (42_encoder.md R163 to R169). -/

namespace Sys2Proof.Machine

/-- An encoder turn is the encoder's step, in the state without that turn. -/
theorem step_of_encoder_turn {s : State} {ts : List Turn} (h : s.turns = .encoder :: ts) :
    step s = .next (encoderStep Config.hw (withTurns s ts)) := by
  rw [step_of_turn h, endTurn_of_turns h]
  rfl

theorem encoderStep_of_idle {c : Config} {s : State} (h : s.encSt = .idle) : encoderStep c s = s := by
  simp [encoderStep, h]

theorem encoderStep_of_hdr {c : Config} {s : State} (h : s.encSt = .hdr) : encoderStep c s = headerStep c s := by
  simp [encoderStep, h]

theorem encoderStep_of_slot {c : Config} {s : State} (h : s.encSt = .slot) : encoderStep c s = slotStep c s := by
  simp [encoderStep, h]

/-- The token of a slot at this hardware's constants (42_encoder.md R164 to R166). -/
theorem slotToken_hw (f : Frame) (i : Nat) :
    slotToken Config.hw f i = ⟨if i % 2 = 0 then .off else .on, if f.getLsbD (39 - i) then 800 else 400⟩ := by
  rw [slotToken, slotLevel, bitDur_hw, slotBit_hw]

/-- R168 outside IDLE: whatever the busy encoder's step, it emits one token. -/
theorem encoderStep_emits_one {c : Config} {s : State} (h : s.encSt ≠ .idle) :
    ∃ p, (encoderStep c s).emitted = s.emitted ++ [p] := by
  rcases encoderStep_cases c s with ⟨hi, -⟩ | ⟨-, e⟩ | ⟨-, e⟩ | ⟨-, e⟩
  · exact absurd hi h
  · exact ⟨headerToken c, by rw [e]; rfl⟩
  · exact ⟨slotToken c s.encFrame s.encIdx.toNat, by rw [e]; rfl⟩
  · exact ⟨trailerToken c, by rw [e]; rfl⟩

theorem length_frameTokens (c : Config) (f : Frame) : (frameTokens c f).length = c.frameBits + 2 := by
  simp [frameTokens]

theorem frameTokens_drop_trailer (c : Config) (f : Frame) :
    (frameTokens c f).drop (c.frameBits + 1) = [trailerToken c] := by
  simp [frameTokens]

/-- From slot i on, a frame's tokens are that slot's and those after it (42_encoder.md R169). -/
theorem frameTokens_drop_slot (c : Config) (f : Frame) {i : Nat} (h : i < c.frameBits) :
    (frameTokens c f).drop (i + 1) = slotToken c f i :: (frameTokens c f).drop (i + 2) := by
  rw [List.drop_eq_getElem?_toList_append, frameTokens_slot c f h]
  rfl

/-- The tokens of the running encode that are still to be emitted, in order (42_encoder.md R169). -/
def pendingTokens (s : State) : List PulseSegment :=
  match s.encSt with
  | .idle => []
  | .hdr => frameTokens Config.hw s.encFrame
  | .slot => (frameTokens Config.hw s.encFrame).drop (s.encIdx.toNat + 1)
  | .trl => [trailerToken Config.hw]

theorem pendingTokens_of_idle {s : State} (h : s.encSt = .idle) : pendingTokens s = [] := by
  simp [pendingTokens, h]

theorem pendingTokens_of_hdr {s : State} (h : s.encSt = .hdr) :
    pendingTokens s = frameTokens Config.hw s.encFrame := by
  simp [pendingTokens, h]

theorem pendingTokens_of_slot {s : State} (h : s.encSt = .slot) :
    pendingTokens s = (frameTokens Config.hw s.encFrame).drop (s.encIdx.toNat + 1) := by
  simp [pendingTokens, h]

theorem pendingTokens_of_trl {s : State} (h : s.encSt = .trl) : pendingTokens s = [trailerToken Config.hw] := by
  simp [pendingTokens, h]

/-- The schedule is no part of what is pending. -/
@[simp] theorem pendingTokens_withTurns (s : State) (ts : List Turn) :
    pendingTokens (withTurns s ts) = pendingTokens s := rfl

/-- The header step leaves the slots and the trailer (42_encoder.md R163). -/
theorem pendingTokens_headerStep {s : State} (hidx : s.encIdx = 0) :
    pendingTokens (headerStep Config.hw s) = (frameTokens Config.hw s.encFrame).drop 1 := by
  rw [pendingTokens_of_slot rfl]
  simp [headerStep, hidx]

/-- The slot step leaves the slots after it and the trailer; after slot 39 the trailer alone (42_encoder.md R164). -/
theorem pendingTokens_slotStep {s : State} (hidx : s.encIdx.toNat < 40) :
    pendingTokens (slotStep Config.hw s) = (frameTokens Config.hw s.encFrame).drop (s.encIdx.toNat + 2) := by
  by_cases hlast : s.encIdx.toNat + 1 = 40
  · have hnext : (slotStep Config.hw s).encSt = .trl := if_pos hlast
    have hcount : s.encIdx.toNat + 2 = Config.hw.frameBits + 1 := by rw [hw_frameBits]; omega
    rw [pendingTokens_of_trl hnext, hcount, frameTokens_drop_trailer]
  · have hnext : (slotStep Config.hw s).encSt = .slot := if_neg hlast
    have hcount : (slotStep Config.hw s).encIdx.toNat = s.encIdx.toNat + 1 := toNat_slotIndex_succ hidx
    rw [pendingTokens_of_slot hnext, hcount]
    rfl

/-- A busy encoder's turn emits the first of the pending tokens and leaves the others pending. -/
theorem encoderStep_emits_next {s : State} (hinv : EncoderInv s) (hbusy : s.encSt ≠ .idle) :
    ∃ p, (encoderStep Config.hw s).emitted = s.emitted ++ [p] ∧
      pendingTokens s = p :: pendingTokens (encoderStep Config.hw s) := by
  obtain ⟨-, -, hhdr, hslot⟩ := hinv
  rcases encoderStep_cases Config.hw s with ⟨hst, -⟩ | ⟨hst, e⟩ | ⟨hst, e⟩ | ⟨hst, e⟩
  · exact absurd hst hbusy
  · refine ⟨headerToken Config.hw, by rw [e]; rfl, ?_⟩
    rw [e, pendingTokens_of_hdr hst, pendingTokens_headerStep (hhdr hst)]
    rfl
  · refine ⟨slotToken Config.hw s.encFrame s.encIdx.toNat, by rw [e]; rfl, ?_⟩
    rw [e, pendingTokens_of_slot hst, pendingTokens_slotStep (hslot hst)]
    exact frameTokens_drop_slot Config.hw s.encFrame (hslot hst)
  · refine ⟨trailerToken Config.hw, by rw [e]; rfl, ?_⟩
    rw [e, pendingTokens_of_trl hst, pendingTokens_of_idle rfl]

/-- Between the encoder's turns nothing is emitted, and what is pending stays so: an encode is accepted only when nothing
is (42_encoder.md R168, 40_port.md R121). -/
theorem TurnEffect.keeps_emission {s u : State} {t : Turn} (he : TurnEffect s t u) (hreset : t ≠ .reset)
    (henc : t ≠ .encoder) : u.emitted = s.emitted ∧ ∃ later, pendingTokens u = pendingTokens s ++ later := by
  cases he with
  | startsEncode f hi =>
    rw [pendingTokens_of_idle hi]
    exact ⟨rfl, _, rfl⟩
  | writesCapture i l d =>
    rw [capWrite_state]
    exact ⟨rfl, [], (List.append_nil _).symm⟩
  | resets => exact absurd rfl hreset
  | encoderIdle | emitsHeader | emitsSlot | emitsTrailer => exact absurd rfl henc
  | _ => exact ⟨rfl, [], (List.append_nil _).symm⟩

/-- Under every interleaving without reset, the encoder's turns append the pending tokens, one each: the refinement
behind R169, for any point of an encode. -/
theorem runTurns_emits_pending {ts : List Turn} {s v : State} (hinv : EncoderInv s) (hreset : .reset ∉ ts)
    (hcount : ts.count .encoder ≤ (pendingTokens s).length) (hrun : runTurns ts s = .next v) :
    v.emitted = s.emitted ++ (pendingTokens s).take (ts.count .encoder) := by
  induction ts generalizing s with
  | nil =>
    cases hrun
    simp
  | cons t ts ih =>
    obtain ⟨u, hturn, hrest⟩ := runTurns_cons_next hrun
    have htail : .reset ∉ ts := fun hmem => hreset (List.mem_cons_of_mem t hmem)
    have heff := takeTurn_effect hturn
    have hinvu : EncoderInv u := EncoderInv.of_effect (s := withTurns s ts) hinv heff
    by_cases henc : t = .encoder
    · subst henc
      cases hturn
      rw [List.count_cons_self] at hcount ⊢
      have hbusy : s.encSt ≠ .idle := fun hidle => by simp [pendingTokens_of_idle hidle] at hcount
      obtain ⟨p, hemit, hpend⟩ := encoderStep_emits_next (s := withTurns s ts) hinv hbusy
      rw [pendingTokens_withTurns] at hpend
      rw [hpend] at hcount
      rw [ih hinvu htail (Nat.le_of_succ_le_succ hcount) hrest, hemit, hpend]
      simp
    · have hother : t ≠ .reset := fun h => hreset (h ▸ List.mem_cons_self)
      obtain ⟨hemit, later, hpend⟩ := heff.keeps_emission hother henc
      rw [List.count_cons_of_ne henc] at hcount ⊢
      have hfits : ts.count .encoder ≤ (pendingTokens u).length := by
        rw [hpend, pendingTokens_withTurns, List.length_append]
        omega
      rw [ih hinvu htail hfits hrest, hemit, hpend, pendingTokens_withTurns, withTurns_emitted,
        List.take_append_of_le_length hcount]

/-- An accepted ENC.TW or ENC.RAW leaves all 42 tokens of its frame pending and emits none (42_encoder.md R161, R162). -/
theorem encodeCommand_starts {s : State} (h : s.encSt = .idle) (f : Frame) :
    EncoderInv (encodeCommand f s) ∧ (encodeCommand f s).emitted = s.emitted ∧
      pendingTokens (encodeCommand f s) = frameTokens Config.hw f := by
  rw [encodeCommand_of_idle h]
  exact ⟨.of_hdr rfl rfl, rfl, pendingTokens_of_hdr rfl⟩

/-- R169 for an encode of any frame. -/
theorem runTurns_encodeCommand_emitted {s t : State} {f : Frame} {ts : List Turn} (hidle : s.encSt = .idle)
    (hreset : .reset ∉ ts) (hcount : ts.count .encoder ≤ 42) (hrun : runTurns ts (encodeCommand f s) = .next t) :
    t.emitted = s.emitted ++ (frameTokens Config.hw f).take (ts.count .encoder) := by
  obtain ⟨hinv, hemit, hpend⟩ := encodeCommand_starts hidle f
  have hlen : (pendingTokens (encodeCommand f s)).length = 42 := by rw [hpend, length_frameTokens, hw_frameBits]
  rw [runTurns_emits_pending hinv hreset (hcount.trans_eq hlen.symm) hrun, hemit, hpend]

end Sys2Proof.Machine

namespace Sys2Proof

open Machine

/-- Settles O22: the encoder's turn in HDR is the header step, at this hardware's header duration. -/
theorem headerStepEmitsTheHeader : Obligations.HeaderStepEmitsTheHeader := by
  unfold Obligations.HeaderStepEmitsTheHeader
  intro s ts hts hst
  have hst' : (withTurns s ts).encSt = .hdr := hst
  rw [step_of_encoder_turn hts, encoderStep_of_hdr hst', headerStep, headerToken_hw]
  rfl

/-- Settles O23: the encoder's turn in SLOT is the slot step, whose token is the slot's and whose index cannot wrap. -/
theorem slotStepEmitsTheSlot : Obligations.SlotStepEmitsTheSlot := by
  unfold Obligations.SlotStepEmitsTheSlot
  intro s ts hts hst hidx
  have hst' : (withTurns s ts).encSt = .slot := hst
  refine ⟨slotStep Config.hw (withTurns s ts), ?step, ?frame, toNat_slotIndex_succ hidx⟩
  case step => rw [step_of_encoder_turn hts, encoderStep_of_slot hst']
  case frame =>
    rw [slotStep_hw, slotToken_hw]
    rfl

/-- Settles O25: the encoder's turn always answers, by what its step does in IDLE and outside it. -/
theorem encoderIsTotal : Obligations.EncoderIsTotal := by
  unfold Obligations.EncoderIsTotal
  intro s ts hts
  refine ⟨_, step_of_encoder_turn hts, fun hidle => ?idle, fun hbusy => ?busy⟩
  case idle => exact encoderStep_of_idle (s := withTurns s ts) hidle
  case busy => exact encoderStep_emits_one (s := withTurns s ts) hbusy

/-- Settles O26: both commands are `encodeCommand` of their frame, whose 42 tokens the encoder's turns append in order. -/
theorem emissionSequenceUnderEveryInterleaving : Obligations.EmissionSequenceUnderEveryInterleaving := by
  unfold Obligations.EmissionSequenceUnderEveryInterleaving
  intro s s₁ t i f ts hidle hcmd hexec hreset hcount hrun
  have hstart : s₁ = encodeCommand f s := by
    rcases hcmd with ⟨a, b, rfl, rfl⟩ | ⟨a, v, rfl, rfl⟩
    · cases hexec; rfl
    · cases hexec; rfl
  subst hstart
  rw [runTurns_encodeCommand_emitted hidle hreset hcount hrun, frameTokens_hw]
  rfl

end Sys2Proof

/-! PROOF. The decoder's comparators and the bands of a legal configuration (43_decoder.md R202, R203; 00_scope.md R8). -/

namespace Sys2Proof

theorem Config.legal_iff (c : Config) :
    c.legal = true ↔ c.bandsOrdered = true ∧ c.bandsFit = true ∧ c.durWOk = true ∧ c.depthOk = true ∧
      c.tolOk = true ∧ c.frameBitsOk = true := by
  simp [Config.legal, and_assoc]

theorem Config.bandsFit_iff (c : Config) :
    c.bandsFit = true ↔ (c.zeroMin < 2 ^ c.durW ∧ c.zeroMax < 2 ^ c.durW) ∧
      (c.oneMin < 2 ^ c.durW ∧ c.oneMax < 2 ^ c.durW) ∧ c.hdrMin < 2 ^ c.durW ∧ c.hdrMax < 2 ^ c.durW := by
  simp [Config.bandsFit, and_assoc]

theorem Config.bandsHoldNominal_iff (c : Config) :
    c.bandsHoldNominal = true ↔ (c.zeroMin ≤ c.zeroDuration ∧ c.zeroDuration ≤ c.zeroMax) ∧
      (c.oneMin ≤ c.oneDuration ∧ c.oneDuration ≤ c.oneMax) ∧
      c.hdrMin ≤ c.headerDuration ∧ c.headerDuration ≤ c.hdrMax := by
  simp [Config.bandsHoldNominal, and_assoc]

theorem Config.hasProtocolConstants_iff (c : Config) :
    c.hasProtocolConstants = true ↔ c.zeroDuration = 400 ∧ c.oneDuration = 800 ∧ c.headerDuration = 1600 ∧
      c.trailerGuard = 1000 ∧ c.frameBits = 40 ∧ c.seedDefault = 0xAE ∧ c.fixedMarker = 0xAA ∧
      c.ckOffset = 0x0D := by
  simp [Config.hasProtocolConstants, and_assoc]

/-- The bit bands of a legal configuration are disjoint: the 0 band ends below the 1 band (00_scope.md R8). -/
theorem Config.zeroMax_lt_oneMin {c : Config} (hc : c.legal = true) : c.zeroMax < c.oneMin := by
  obtain ⟨hordered, -⟩ := c.legal_iff.mp hc
  simp only [Config.bandsOrdered, Bool.and_eq_true, decide_eq_true_eq] at hordered
  omega

/-- No duration lies in both bit bands of a legal configuration. -/
theorem Config.bitBands_disjoint {c : Config} (hc : c.legal = true) (d : Dur) :
    ¬ ((c.zeroMin ≤ d ∧ d ≤ c.zeroMax) ∧ (c.oneMin ≤ d ∧ d ≤ c.oneMax)) := by
  rintro ⟨⟨-, hzero⟩, hone, -⟩
  exact Nat.not_le_of_lt (Config.zeroMax_lt_oneMin hc) (hone.trans hzero)

theorem Config.le_capDepth {c : Config} (hc : c.legal = true) : 41 ≤ c.capDepth := by
  obtain ⟨-, -, -, hdepth, -⟩ := c.legal_iff.mp hc
  exact of_decide_eq_true hdepth

theorem Config.frameBits_eq {c : Config} (hc : c.legal = true) : c.frameBits = 40 := by
  obtain ⟨-, -, -, -, -, hframe⟩ := c.legal_iff.mp hc
  exact eq_of_beq hframe

end Sys2Proof

namespace Sys2Proof.Machine

theorem classify_eq_zero_iff (c : Config) (d : Dur) :
    classify c d = some false ↔ c.zeroMin ≤ d ∧ d ≤ c.zeroMax := by
  unfold classify
  split
  · next hzero => exact iff_of_true rfl hzero
  · next hzero => split <;> simpa using hzero

/-- The 0 band is compared first, so the 1 band decides by itself only where the two are disjoint (00_scope.md R8). -/
theorem classify_eq_one_iff {c : Config} (hc : c.legal = true) (d : Dur) :
    classify c d = some true ↔ c.oneMin ≤ d ∧ d ≤ c.oneMax := by
  unfold classify
  split
  · next hzero => exact iff_of_false nofun (fun hone => Config.bitBands_disjoint hc d ⟨hzero, hone⟩)
  · split
    · next hone => exact iff_of_true rfl hone
    · next hone => exact iff_of_false nofun hone

theorem classify_eq_none_iff (c : Config) (d : Dur) :
    classify c d = none ↔ ¬ (c.zeroMin ≤ d ∧ d ≤ c.zeroMax) ∧ ¬ (c.oneMin ≤ d ∧ d ≤ c.oneMax) := by
  unfold classify
  split
  · next hzero => exact iff_of_false nofun (fun h => h.1 hzero)
  · next hzero =>
    split
    · next hone => exact iff_of_false nofun (fun h => h.2 hone)
    · next hone => exact iff_of_true rfl ⟨hzero, hone⟩

end Sys2Proof.Machine

namespace Sys2Proof

open Machine

/-- Settles O32: the comparators' own lemmas at this hardware's bounds, and the disjoint bands of any legal one. -/
theorem classifyByToleranceWindow : Obligations.ClassifyByToleranceWindow := by
  unfold Obligations.ClassifyByToleranceWindow
  refine ⟨fun c d hc => ?disjoint, fun d => ⟨?zero, ?one, ?outside, fun l => ?header⟩⟩
  case disjoint => exact Config.bitBands_disjoint hc d
  case zero => exact classify_eq_zero_iff Config.hw d
  case one => exact classify_eq_one_iff hw_legal d
  case outside => exact classify_eq_none_iff Config.hw d
  case header => exact hdrOk_iff Config.hw ⟨l, d⟩

end Sys2Proof

/-! PROOF. The decoder's turns: the header, a slot, the two terminations (43_decoder.md R204 to R209, R215). -/

namespace Sys2Proof.Machine

/-- A decoder turn is the decoder's step, in the state without that turn. -/
theorem step_of_decoder_turn {s : State} {ts : List Turn} (h : s.turns = .decoder :: ts) :
    step s = decoderStep Config.hw (withTurns s ts) := by
  rw [step_of_turn h, endTurn_of_turns h]
  rfl

theorem decoderStep_of_awaitHeader {c : Config} {s : State} (hc : c.legal = true) (h : s.decSt = .awaitHeader) :
    decoderStep c s = awaitHeaderStep c s := by
  simp [decoderStep, hc, h]

theorem decoderStep_of_readBits {c : Config} {s : State} (hc : c.legal = true) (h : s.decSt = .readBits) :
    decoderStep c s = readBitsStep c s := by
  simp [decoderStep, hc, h]

theorem decoderStep_of_done {c : Config} {s : State} (hc : c.legal = true) (h : s.decSt = .done) :
    decoderStep c s = .next (finishDecode c s) := by
  simp [decoderStep, hc, h]

theorem awaitHeaderStep_of_absent {c : Config} {s : State} (h : s.decLen = 0) :
    awaitHeaderStep c s = .next (failDecode s .malformedHeader) := by
  simp [awaitHeaderStep, h]

theorem awaitHeaderStep_of_capRead {c : Config} {s u : State} {p : PulseSegment} (h : s.decLen ≠ 0)
    (hread : capRead c s 0 = some (p, u)) :
    awaitHeaderStep c s =
      .next (if hdrOk c p = true then { u with decSt := .readBits } else failDecode u .malformedHeader) := by
  simp only [awaitHeaderStep, if_neg h, hread]
  split <;> rfl

theorem readBitsStep_of_absent {c : Config} {s : State} (h : s.decLen.toNat ≤ s.decIdx.toNat + 1) :
    readBitsStep c s = .next (failDecode s .truncatedFrame) := by
  simp [readBitsStep, h]

theorem readBitsStep_of_capRead {c : Config} {s u : State} {p : PulseSegment}
    (h : s.decIdx.toNat + 1 < s.decLen.toNat) (hread : capRead c s (s.decIdx.toNat + 1) = some (p, u)) :
    readBitsStep c s = .next (takeSlot c p u) := by
  simp [readBitsStep, Nat.not_le.mpr h, hread]

theorem takeSlot_of_wrongLevel {c : Config} {s : State} {p : PulseSegment} (h : p.level ≠ slotLevel s.decIdx.toNat) :
    takeSlot c p s = failDecode s .truncatedFrame := by
  simp [takeSlot, h]

theorem takeSlot_of_outOfBand {c : Config} {s : State} {p : PulseSegment} (h : p.level = slotLevel s.decIdx.toNat)
    (hd : classify c p.dur = none) : takeSlot c p s = failDecode s .ambiguousTiming := by
  simp [takeSlot, h, hd]

theorem takeSlot_of_classified {c : Config} {s : State} {p : PulseSegment} {b : Bool}
    (h : p.level = slotLevel s.decIdx.toNat) (hd : classify c p.dur = some b) :
    takeSlot c p s = takeBit c s b := by
  simp [takeSlot, takeBit, h, hd]

theorem shiftIn_false (acc : Frame) : shiftIn acc false = acc <<< 1 :=
  BitVec.add_zero _

theorem shiftIn_true (acc : Frame) : shiftIn acc true = acc <<< 1 + 1 := rfl

/-- The three checks of a present entry in R205's order: polarity, the 0 band, the 1 band. -/
theorem takeSlot_eq_ite {c : Config} (hc : c.legal = true) (p : PulseSegment) (s : State) :
    takeSlot c p s =
      if p.level ≠ slotLevel s.decIdx.toNat then failDecode s .truncatedFrame
      else if c.zeroMin ≤ p.dur ∧ p.dur ≤ c.zeroMax then takeBit c s false
      else if c.oneMin ≤ p.dur ∧ p.dur ≤ c.oneMax then takeBit c s true
      else failDecode s .ambiguousTiming := by
  split
  · next hlevel => exact takeSlot_of_wrongLevel hlevel
  · next hlevel =>
    rw [not_not] at hlevel
    split
    · next hzero => exact takeSlot_of_classified hlevel ((classify_eq_zero_iff c p.dur).mpr hzero)
    · next hzero =>
      split
      · next hone => exact takeSlot_of_classified hlevel ((classify_eq_one_iff hc p.dur).mpr hone)
      · next hone => exact takeSlot_of_outOfBand hlevel ((classify_eq_none_iff c p.dur).mpr ⟨hzero, hone⟩)

/-- An IDLE decoder takes the waiting DEC word (43_decoder.md R200, R208, R215). -/
theorem exec_dec_starts {s : State} (h : s.decSt = .idle) (n : BitVec 16) :
    ∃ v, exec (.dec n) s = .next v ∧ v.decSt = .awaitHeader ∧ v.hostWords = s.hostWords.tail :=
  ⟨_, execDec_of_idle h n, rfl, rfl⟩

/-- `checksumMismatch_iff` as the value of CKMM, at this hardware's offset (43_decoder.md R209). -/
theorem checksumMismatch_hw (f : Frame) :
    checksumMismatch Config.hw f =
      decide (f.toNat % 16 ≠ (0x0D + f.toNat / 65536 % 256 + f.toNat / 256 % 256) % 16) := by
  rw [Bool.eq_iff_iff, checksumMismatch_iff, hw_ckOffset, decide_eq_true_iff]

/-- How a decoder turn can end in IDLE: nothing was running, the decode failed, or it succeeded
(43_decoder.md R208, R215). -/
theorem TurnEffect.decoder_idle_cases {s u : State} (he : TurnEffect s .decoder u) (hu : u.decSt = .idle) :
    (s.decSt = .idle ∧ u = s) ∨
    (∃ n code, code ≠ .none ∧ u = failDecode (withFreeCount s n) code) ∨
    u.decOk = true := by
  cases he with
  | decoderIdle h => exact .inl ⟨h, rfl⟩
  | failsHeader n h => exact .inr (.inl ⟨n, .malformedHeader, nofun, rfl⟩)
  | failsSlot n code h hcode => exact .inr (.inl ⟨n, code, by rcases hcode with rfl | rfl <;> exact nofun, rfl⟩)
  | findsHeader n h => cases hu
  | takesBit n b h =>
    dsimp only [takeBit] at hu
    split at hu <;> cases hu
  | finishes h => exact .inr (.inr rfl)

theorem errCode_of_ne_none {e : DecErr} (h : e ≠ .none) : errCode e = 1 ∨ errCode e = 2 ∨ errCode e = 3 := by
  cases e with
  | none => exact absurd rfl h
  | malformedHeader => exact .inl rfl
  | truncatedFrame => exact .inr (.inl rfl)
  | ambiguousTiming => exact .inr (.inr rfl)

end Sys2Proof.Machine

namespace Sys2Proof

open Machine

/-- Settles O33: the decoder's turn in AWAIT_HEADER by presence of entry 0, the header band at this hardware's bounds. -/
theorem awaitHeaderStep : Obligations.AwaitHeaderStep := by
  unfold Obligations.AwaitHeaderStep
  intro s ts hts hst
  have hstep : step s = Machine.awaitHeaderStep Config.hw (withTurns s ts) := by
    rw [step_of_decoder_turn hts, decoderStep_of_awaitHeader hw_legal (by simpa using hst)]
  rw [hstep]
  refine ⟨fun habsent => ?absent, fun p u hpresent hread => ?present⟩
  case absent => exact awaitHeaderStep_of_absent (s := withTurns s ts) habsent
  case present =>
    rw [awaitHeaderStep_of_capRead (s := withTurns s ts) hpresent hread]
    simp only [hdrOk_iff, hw_hdrMin, hw_hdrMax]

/-- Settles O34: the decoder's turn in READ_BITS by presence of the slot's entry, then the checks of `takeSlot`, on a
state that CapRead left with the decoder's registers as they were. -/
theorem readBitsStep : Obligations.ReadBitsStep := by
  unfold Obligations.ReadBitsStep
  intro s ts hts hst _
  have hstep : step s = Machine.readBitsStep Config.hw (withTurns s ts) := by
    rw [step_of_decoder_turn hts, decoderStep_of_readBits hw_legal (by simpa using hst)]
  rw [hstep]
  refine ⟨fun habsent => ?absent, fun p u hpresent hread => ?present⟩
  case absent => exact readBitsStep_of_absent (s := withTurns s ts) habsent
  case present =>
    rw [readBitsStep_of_capRead (s := withTurns s ts) hpresent hread, takeSlot_eq_ite hw_legal]
    rw [capRead_withFreeCount hread]
    simp only [takeBit, shiftIn_false, shiftIn_true]
    rfl

/-- Settles O35: the decoder's turn in DONE is the successful termination, at this hardware's constants. -/
theorem doneStepWritesTheResult : Obligations.DoneStepWritesTheResult := by
  unfold Obligations.DoneStepWritesTheResult
  intro s ts hts hst
  refine ⟨finishDecode Config.hw (withTurns s ts), ?step, ?record, exec_dec_starts rfl⟩
  case step => rw [step_of_decoder_turn hts, decoderStep_of_done hw_legal (by simpa using hst)]
  case record =>
    rw [finishDecode, checksumMismatch_hw]
    rfl

/-- Settles O36: of the ways a decoder turn can end in IDLE only a failure leaves a busy decoder without DEC_OK. -/
theorem failedDecodeRecord : Obligations.FailedDecodeRecord := by
  unfold Obligations.FailedDecodeRecord
  intro s u ts hts hbusy hstep hidle hok
  rw [step_of_decoder_turn hts] at hstep
  rcases (decoderStep_effect hstep).decoder_idle_cases hidle with ⟨hst, -⟩ | ⟨n, code, hcode, rfl⟩ | hsuccess
  · exact absurd hst hbusy
  · exact ⟨errCode_of_ne_none hcode, rfl, exec_dec_starts rfl⟩
  · simp [hok] at hsuccess

end Sys2Proof

/-! PROOF. The decode of a captured frame under any configuration whose bands hold the nominal durations, and the round
trip of a team and weapon code (43_decoder.md R212). -/

namespace Sys2Proof.Machine

/-- A nominal duration is emitted as it is, since the band around it fits DUR_W bits, and classifies as its own bit. -/
theorem classify_bitDur {c : Config} (hc : c.legal = true) (hn : c.bandsHoldNominal = true) (b : Bool) :
    classify c (bitDur c b) = some b := by
  obtain ⟨-, hfit, -⟩ := c.legal_iff.mp hc
  obtain ⟨⟨-, hzeroFits⟩, ⟨-, honeFits⟩, -⟩ := c.bandsFit_iff.mp hfit
  obtain ⟨hzero, hone, -⟩ := c.bandsHoldNominal_iff.mp hn
  cases b with
  | false =>
    have hdur : bitDur c false = c.zeroDuration := tokenDur_of_lt (hzero.2.trans_lt hzeroFits)
    rw [hdur]
    exact (classify_eq_zero_iff c _).mpr hzero
  | true =>
    have hdur : bitDur c true = c.oneDuration := tokenDur_of_lt (hone.2.trans_lt honeFits)
    rw [hdur]
    exact (classify_eq_one_iff hc _).mpr hone

theorem hdrOk_headerToken {c : Config} (hc : c.legal = true) (hn : c.bandsHoldNominal = true) :
    hdrOk c (headerToken c) = true := by
  obtain ⟨-, hfit, -⟩ := c.legal_iff.mp hc
  obtain ⟨-, -, -, hhdrFits⟩ := c.bandsFit_iff.mp hfit
  obtain ⟨-, -, hhdr⟩ := c.bandsHoldNominal_iff.mp hn
  have htoken : headerToken c = ⟨.on, c.headerDuration⟩ :=
    congrArg (PulseSegment.mk .on) (tokenDur_of_lt (hhdr.2.trans_lt hhdrFits))
  rw [htoken]
  exact (hdrOk_iff c _).mpr ⟨rfl, hhdr⟩

/-- Shifting in the next bit of a frame, most significant first, moves its leading bits one on (43_decoder.md R207). -/
theorem shiftIn_ushiftRight (f : Frame) (m : Nat) : shiftIn (f >>> (m + 1)) (f.getLsbD m) = f >>> m := by
  have hbit : (f.getLsbD m).toNat = f.toNat / 2 ^ m % 2 := Nat.toNat_testBit f.toNat m
  have hhalf : f.toNat / 2 ^ (m + 1) = f.toNat / 2 ^ m / 2 := by rw [Nat.pow_succ, Nat.div_div_eq_div_mul]
  have hlt : f.toNat / 2 ^ m < 2 ^ 40 := (Nat.div_le_self _ _).trans_lt f.isLt
  apply BitVec.eq_of_toNat_eq
  rw [toNat_shiftIn, BitVec.toNat_ushiftRight, BitVec.toNat_ushiftRight, Nat.shiftRight_eq_div_pow,
    Nat.shiftRight_eq_div_pow, hbit, hhalf]
  omega

/-- The decoder after the header and the first `k` slots of a captured frame: the accumulator holds the frame's `k` leading
bits, and the entries still to be read are the frame's tokens, none of them written since the DEC (43_decoder.md R205). -/
structure DecodingFrame (c : Config) (f : Frame) (k : Nat) (s : State) : Prop where
  decSt : s.decSt = if k = 40 then .done else .readBits
  decIdx : s.decIdx.toNat = k
  decAcc : s.decAcc = f >>> (40 - k)
  decLen : 41 ≤ s.decLen.toNat
  overwritten : s.overwritten = []
  cap : ∀ i ≤ 40, capGet s.cap i = (frameTokens c f)[i]?

/-- With no race, CapRead answers the entry as it stands (20_memory.md R64). -/
theorem capRead_of_noRace {c : Config} {s : State} {i : Nat} {p : PulseSegment} (h : s.overwritten = [])
    (hget : capGet s.cap i = some p) : capRead c s i = some (p, s) := by
  rw [capRead_eq_of_no_race (oldValues_of_overwritten_nil h i), hget]
  rfl

/-- DEC 42 asks for at least the 41 entries a frame's decode reads: CAP_DEPTH is at least 41 (00_scope.md R8). -/
theorem le_effectiveLen_42 {c : Config} (hc : c.legal = true) : 41 ≤ (effectiveLen c 42).toNat := by
  have hdepth := Config.le_capDepth hc
  have hasked : (42 : BitVec 16).toNat = 42 := rfl
  rw [effectiveLen, BitVec.toNat_ofNat, hasked]
  omega

/-- The header step of a captured frame's decode (43_decoder.md R204). -/
theorem decoderStep_startDecode {c : Config} {f : Frame} {s : State} (hc : c.legal = true)
    (hn : c.bandsHoldNominal = true) (hcap : ∀ i ≤ 40, capGet s.cap i = (frameTokens c f)[i]?) :
    ∃ t, decoderStep c (startDecode c s 42) = .next t ∧ DecodingFrame c f 0 t := by
  have hlen : 41 ≤ (startDecode c s 42).decLen.toNat := le_effectiveLen_42 hc
  have hpresent : (startDecode c s 42).decLen ≠ 0 := fun h => absurd (h ▸ hlen) (by decide)
  have hheader : capGet (startDecode c s 42).cap 0 = some (headerToken c) := hcap 0 (Nat.zero_le 40)
  refine ⟨{ startDecode c s 42 with decSt := .readBits }, ?step, rfl, rfl, ?acc, hlen, rfl, hcap⟩
  case step =>
    rw [decoderStep_of_awaitHeader hc rfl, awaitHeaderStep_of_capRead hpresent (capRead_of_noRace rfl hheader),
      if_pos (hdrOk_headerToken hc hn)]
  case acc => exact (BitVec.ushiftRight_eq_zero (Nat.le_refl 40)).symm

/-- The step of slot `k` of a captured frame's decode: its bit is taken (43_decoder.md R205). -/
theorem DecodingFrame.takes_slot {c : Config} {f : Frame} {k : Nat} {s : State} (hc : c.legal = true)
    (hn : c.bandsHoldNominal = true) (h : DecodingFrame c f k s) (hk : k < 40) :
    ∃ t, decoderStep c s = .next t ∧ DecodingFrame c f (k + 1) t := by
  obtain ⟨hst, hidx, hacc, hlen, hrace, hcap⟩ := h
  have hframe := Config.frameBits_eq hc
  have hread : s.decSt = .readBits := by rw [hst, if_neg hk.ne]
  have htoken : capGet s.cap (s.decIdx.toNat + 1) = some (slotToken c f k) := by
    rw [hidx, hcap (k + 1) hk, frameTokens_slot c f (hframe ▸ hk)]
  have hlevel : (slotToken c f k).level = slotLevel s.decIdx.toNat := by rw [hidx]; rfl
  have hbit : slotBit c f k = f.getLsbD (39 - k) := by rw [slotBit, hframe]
  have hleft : 40 - k = (39 - k) + 1 := by omega
  have hnext : 40 - (k + 1) = 39 - k := by omega
  refine ⟨takeBit c s (slotBit c f k), ?step, ?state, ?count, ?acc, hlen, hrace, hcap⟩
  case step =>
    rw [decoderStep_of_readBits hc hread, readBitsStep_of_capRead (by omega) (capRead_of_noRace hrace htoken),
      takeSlot_of_classified hlevel (classify_bitDur hc hn _)]
  case state => simp only [takeBit, hidx, hframe]
  case count => exact (toNat_slotIndex_succ (hidx ▸ hk)).trans (congrArg (· + 1) hidx)
  case acc =>
    calc (takeBit c s (slotBit c f k)).decAcc
      _ = shiftIn (f >>> (39 - k + 1)) (f.getLsbD (39 - k)) := by rw [takeBit, hacc, hbit, hleft]
      _ = f >>> (40 - (k + 1)) := by rw [shiftIn_ushiftRight, hnext]

theorem DecodingFrame.decAcc_of_all {c : Config} {f : Frame} {s : State} (h : DecodingFrame c f 40 s) :
    s.decAcc = f := by
  rw [h.decAcc, Nat.sub_self, BitVec.ushiftRight_zero]

theorem decoderRun_of_next {c : Config} {k : Nat} {s t : State} (h : decoderStep c s = .next t) :
    decoderRun c (k + 1) s = decoderRun c k t := by
  rw [decoderRun, h]

/-- The `n` slots left and the DONE step of a captured frame's decode. -/
theorem DecodingFrame.run_finishes {c : Config} {f : Frame} (hc : c.legal = true) (hn : c.bandsHoldNominal = true)
    {n k : Nat} {s : State} (h : DecodingFrame c f k s) (hleft : k + n = 40) :
    ∃ u, decoderRun c (n + 1) s = .next (finishDecode c u) ∧ DecodingFrame c f 40 u := by
  induction n generalizing k s with
  | zero =>
    subst hleft
    exact ⟨s, decoderRun_of_next (decoderStep_of_done hc h.decSt), h⟩
  | succ n ih =>
    obtain ⟨t, hstep, ht⟩ := h.takes_slot hc hn (by omega)
    obtain ⟨u, hrun, hu⟩ := ih ht (by omega)
    exact ⟨u, (decoderRun_of_next hstep).trans hrun, hu⟩

/-- DEC 42 of a captured frame ends, after 42 decoder steps, with the DONE step on that frame: any frame, and any legal
configuration whose bands hold the nominal durations. -/
theorem decoderRun_startDecode {c : Config} {f : Frame} {s : State} (hc : c.legal = true)
    (hn : c.bandsHoldNominal = true) (hcap : ∀ i ≤ 40, capGet s.cap i = (frameTokens c f)[i]?) :
    ∃ u, decoderRun c 42 (startDecode c s 42) = .next (finishDecode c u) ∧ u.decAcc = f := by
  obtain ⟨t, hstep, ht⟩ := decoderStep_startDecode hc hn hcap
  obtain ⟨u, hrun, hu⟩ := ht.run_finishes (n := 40) hc hn rfl
  exact ⟨u, (decoderRun_of_next hstep).trans hrun, hu.decAcc_of_all⟩

/-- The team code's place in pack(t, w) (42_encoder.md R160). -/
theorem packTW_team (c : Config) (t w : BitVec 8) : (packTW c t w).extractLsb' 16 8 = t := by
  apply BitVec.eq_of_toNat_eq
  rw [BitVec.extractLsb'_toNat, Nat.shiftRight_eq_div_pow, toNat_packTW]
  omega

/-- The weapon code's place in pack(t, w) (42_encoder.md R160). -/
theorem packTW_weapon (c : Config) (t w : BitVec 8) : (packTW c t w).extractLsb' 8 8 = w := by
  apply BitVec.eq_of_toNat_eq
  rw [BitVec.extractLsb'_toNat, Nat.shiftRight_eq_div_pow, toNat_packTW]
  omega

/-- The checksum's place in pack(t, w) (42_encoder.md R160). -/
theorem toNat_packTW_checksum (c : Config) (t w : BitVec 8) :
    ((packTW c t w).extractLsb' 0 4).toNat = (c.ckOffset + t.toNat + w.toNat) % 16 := by
  rw [BitVec.extractLsb'_toNat, Nat.shiftRight_eq_div_pow, toNat_packTW]
  omega

/-- The frame of a team and weapon code carries its own checksum, for any offset (43_decoder.md R209). -/
theorem checksumMismatch_frameTW (c : Config) (t w : BitVec 8) : checksumMismatch c (frameTW c t w) = false := by
  have hframe : (frameTW c t w).toNat = c.seedDefault.toNat * 4294967296 + (packTW c t w).toNat := by
    rw [frameTW_eq_frameRaw, toNat_frameRaw]
  rw [toNat_packTW] at hframe
  have hsum : (frameTW c t w).toNat % 16 = (c.ckOffset + t.toNat + w.toNat) % 16 := by omega
  have hteam : (frameTW c t w).toNat / 65536 % 256 = t.toNat := by omega
  have hweapon : (frameTW c t w).toNat / 256 % 256 = w.toNat := by omega
  rw [← Bool.not_eq_true, checksumMismatch_iff, hsum, hteam, hweapon]
  exact not_not.mpr rfl

end Sys2Proof.Machine

namespace Sys2Proof

open Machine

/-- Settles O38: the decode of any captured frame, taken at the frame of a team and weapon code. -/
theorem roundTripInEveryLegalConfiguration : Obligations.RoundTripInEveryLegalConfiguration := by
  unfold Obligations.RoundTripInEveryLegalConfiguration
  refine ⟨fun c t w s hc hconst hz₁ hz₂ ho₁ ho₂ hh₁ hh₂ hcap => ?roundTrip, rfl, rfl, rfl⟩
  case roundTrip =>
    obtain ⟨hzero, hone, hheader, -, -, hseed, -, hoffset⟩ := c.hasProtocolConstants_iff.mp hconst
    have hn : c.bandsHoldNominal = true := by
      rw [c.bandsHoldNominal_iff, hzero, hone, hheader]
      exact ⟨⟨hz₁, hz₂⟩, ⟨ho₁, ho₂⟩, hh₁, hh₂⟩
    obtain ⟨u, hrun, hacc⟩ := decoderRun_startDecode hc hn (fun i hi => hcap i (by omega))
    have haddr : (finishDecode c u).decAddr = c.seedDefault := by
      rw [finishDecode_decAddr, hacc, frameTW_eq_frameRaw, frameAddr_frameRaw]
    have hvalue : (finishDecode c u).decValue = packTW c t w := by
      rw [finishDecode_decValue, hacc, frameTW_eq_frameRaw, frameValue_frameRaw]
    have hckmm : (finishDecode c u).ckmm = false := by
      rw [finishDecode_ckmm, hacc, checksumMismatch_frameTW]
    refine ⟨finishDecode c u, hrun, rfl, rfl, rfl, haddr.trans hseed, hvalue, ?team, ?weapon, ?checksum, hckmm,
      ?bits, ?slots⟩
    case team => rw [hvalue, packTW_team]
    case weapon => rw [hvalue, packTW_weapon]
    case checksum => rw [hvalue, toNat_packTW_checksum, hoffset]
    case bits => exact congrArg (BitVec.ofNat 8) (Config.frameBits_eq hc)
    case slots => exact congrArg (BitVec.ofNat 6) (Config.frameBits_eq hc)

end Sys2Proof

/-! PROOF. Reset: the registers it clears and the fields it keeps (70_reset_and_hazards.md R290, R292, R293). -/

namespace Sys2Proof.Machine

/-- A reset's turn is `resetCore`, in the state without that turn. -/
theorem step_of_reset_turn {s : State} {ts : List Turn} (h : s.turns = .reset :: ts) :
    step s = .next (resetCore (withTurns s ts)) := by
  rw [step_of_turn h, endTurn_of_turns h, takeTurn]

/-- Reset on a running core, as the state of power-on with the fields reset keeps. -/
theorem resetCore_eq (s : State) :
    resetCore s = { State.reset with
      cap := s.cap, emitted := s.emitted, hostWords := s.hostWords, reads := s.reads, freeCount := s.freeCount
      turns := s.turns } := rfl

/-- No register shows a field that reset keeps. -/
theorem regAt_resetCore (s : State) (a : BitVec 4) : regAt (resetCore s) a = regAt State.reset a := rfl

/-- Every address reads 0 with the reset values of 10_state.md R51. -/
theorem regAt_reset (a : BitVec 4) : regAt State.reset a = 0 := by
  revert a
  decide

end Sys2Proof.Machine

namespace Sys2Proof

open Machine

/-- Settles O45: the step is `resetCore`, which leaves the registers of power-on. -/
theorem resetClearsAllButCapAndEmitted : Obligations.ResetClearsAllButCapAndEmitted := by
  unfold Obligations.ResetClearsAllButCapAndEmitted
  refine fun s ts hts =>
    ⟨resetCore (withTurns s ts), step_of_reset_turn hts, resetCore_eq (withTurns s ts), fun a => ?registers⟩
  case registers => exact (regAt_resetCore _ a).trans (regAt_reset a)

end Sys2Proof

/-! PROOF. Encoding: decode against encode, the rows of the opcode map, the assembler (30_encoding.md sections 1, 2
and 5). -/

namespace Sys2Proof

theorem reservedZ_eq_zero_iff (w : CmdWord) : reservedZ w = 0 ↔ w.toNat % 1152921504606846976 = 0 := by
  rw [← BitVec.toNat_inj, toNat_reservedZ]
  rfl

theorem reservedTW_eq_zero_iff (w : CmdWord) : reservedTW w = 0 ↔ w.toNat / 65536 % 17592186044416 = 0 := by
  rw [← BitVec.toNat_inj, toNat_reservedTW]
  rfl

theorem reservedRAW_eq_zero_iff (w : CmdWord) : reservedRAW w = 0 ↔ w.toNat / 1099511627776 % 1048576 = 0 := by
  rw [← BitVec.toNat_inj, toNat_reservedRAW]
  rfl

/-- The parts of a word of format TW, from the word as a number (30_encoding.md R93). -/
theorem formatTW_parts {word : CmdWord} {op : Nat} {t w : BitVec 8}
    (h : word.toNat = op * 1152921504606846976 + (t.toNat * 256 + w.toNat)) :
    (opField word).toNat = op ∧ reservedTW word = 0 ∧ fieldT word = t ∧ fieldW word = w := by
  refine ⟨?op, ?reserved, BitVec.eq_of_toNat_eq ?team, BitVec.eq_of_toNat_eq ?weapon⟩
  case op => rw [toNat_opField]; omega
  case reserved => rw [reservedTW_eq_zero_iff]; omega
  case team => rw [toNat_fieldT]; omega
  case weapon => rw [toNat_fieldW]; omega

/-- The parts of a word of format RAW, from the word as a number (30_encoding.md R94). -/
theorem formatRAW_parts {word : CmdWord} {op : Nat} {a : BitVec 8} {v : BitVec 32}
    (h : word.toNat = op * 1152921504606846976 + (a.toNat * 4294967296 + v.toNat)) :
    (opField word).toNat = op ∧ reservedRAW word = 0 ∧ fieldA word = a ∧ fieldV word = v := by
  refine ⟨?op, ?reserved, BitVec.eq_of_toNat_eq ?address, BitVec.eq_of_toNat_eq ?value⟩
  case op => rw [toNat_opField]; omega
  case reserved => rw [reservedRAW_eq_zero_iff]; omega
  case address => rw [toNat_fieldA]; omega
  case value => rw [toNat_fieldV]; omega

/-- The parts of a word of format N, from the word as a number (30_encoding.md R95). -/
theorem formatN_parts {word : CmdWord} {op : Nat} {n : BitVec 16}
    (h : word.toNat = op * 1152921504606846976 + n.toNat) :
    (opField word).toNat = op ∧ reservedTW word = 0 ∧ fieldN word = n := by
  refine ⟨?op, ?reserved, BitVec.eq_of_toNat_eq ?length⟩
  case op => rw [toNat_opField]; omega
  case reserved => rw [reservedTW_eq_zero_iff]; omega
  case length => rw [toNat_fieldN]; omega

/-- A command's word carries the opcode, zero reserved bits and the operands in their fields, so it decodes to the
command (30_encoding.md R91 to R97). -/
theorem decode_encode (i : Instr) : decode (encode i) = .instr i := by
  rw [decode_eq_instr_iff]
  cases i with
  | nop => exact .inl ⟨by decide, by decide, rfl⟩
  | encTw t w =>
    obtain ⟨hop, hres, ht, hw⟩ := formatTW_parts (op := 1) (toNat_encode_encTw t w)
    exact .inr (.inl ⟨hop, hres, by rw [ht, hw]⟩)
  | encRaw a v =>
    obtain ⟨hop, hres, ha, hv⟩ := formatRAW_parts (op := 2) (toNat_encode_encRaw a v)
    exact .inr (.inr (.inl ⟨hop, hres, by rw [ha, hv]⟩))
  | dec n =>
    obtain ⟨hop, hres, hn⟩ := formatN_parts (op := 3) (toNat_encode_dec n)
    exact .inr (.inr (.inr (.inl ⟨hop, hres, by rw [hn]⟩)))
  | cksum t w =>
    obtain ⟨hop, hres, ht, hw⟩ := formatTW_parts (op := 4) (toNat_encode_cksum t w)
    exact .inr (.inr (.inr (.inr ⟨hop, hres, by rw [ht, hw]⟩)))

/-- The opcode, the zero reserved bits and the fields make up every bit of a word that decodes (30_encoding.md R90 to
R95). -/
theorem encode_of_decode {w : CmdWord} {i : Instr} (h : decode w = .instr i) : encode i = w := by
  rw [decode_eq_instr_iff] at h
  simp only [toNat_opField, reservedZ_eq_zero_iff, reservedTW_eq_zero_iff, reservedRAW_eq_zero_iff] at h
  apply BitVec.eq_of_toNat_eq
  rcases h with ⟨hop, hres, rfl⟩ | ⟨hop, hres, rfl⟩ | ⟨hop, hres, rfl⟩ | ⟨hop, hres, rfl⟩ | ⟨hop, hres, rfl⟩
  · rw [toNat_encode_nop]; omega
  · rw [toNat_encode_encTw, toNat_fieldT, toNat_fieldW]; omega
  · rw [toNat_encode_encRaw, toNat_fieldA, toNat_fieldV]; omega
  · rw [toNat_encode_dec, toNat_fieldN]; omega
  · rw [toNat_encode_cksum, toNat_fieldT, toNat_fieldW]; omega

/-- Settles O1: the decoder reads back every field of the word the command was packed into. -/
theorem decodeOfEncodeIsTheCommand : Obligations.DecodeOfEncodeIsTheCommand := by
  unfold Obligations.DecodeOfEncodeIsTheCommand
  exact fun i _ => decode_encode i

/-- Settles O2: the fields of a word that decodes leave no bit of it out. -/
theorem encodeOfDecodeIsTheWord : Obligations.EncodeOfDecodeIsTheWord := by
  unfold Obligations.EncodeOfDecodeIsTheWord
  exact fun _ _ => encode_of_decode

/-- Every row's mask covers the whole opcode field (30_encoding.md R97). -/
theorem opField_mask {r : OpcodeRow} (hr : r ∈ opcodeMap) : opField r.mask = BitVec.allOnes 4 := by
  revert r
  decide

/-- No two rows of the opcode map share an opcode (30_encoding.md R97). -/
theorem opcodeRow_eq_of_opField {r q : OpcodeRow} (hr : r ∈ opcodeMap) (hq : q ∈ opcodeMap)
    (h : opField r.pattern = opField q.pattern) : r = q := by
  have hinj : ∀ r ∈ opcodeMap, ∀ q ∈ opcodeMap, opField r.pattern = opField q.pattern → r = q := by decide
  exact hinj r hr q hq h

/-- A word that a row matches carries that row's opcode. -/
theorem opField_of_selects {r : OpcodeRow} {w : CmdWord} (hr : r ∈ opcodeMap) (h : r.selects w = true) :
    opField w = opField r.pattern := by
  simp only [OpcodeRow.selects, Bool.and_eq_true, beq_iff_eq] at h
  calc opField w
    _ = opField w &&& opField r.mask := by rw [opField_mask hr, BitVec.and_allOnes]
    _ = opField (w &&& r.mask) := BitVec.extractLsb'_and.symm
    _ = opField r.pattern := by rw [h.2]

/-- Settles O4: two rows that match one word share its opcode, and no two rows share one. -/
theorem atMostOneOpcodeRowMatches : Obligations.AtMostOneOpcodeRowMatches := by
  unfold Obligations.AtMostOneOpcodeRowMatches
  exact fun w r q hr hq hrw hqw =>
    opcodeRow_eq_of_opField hr hq ((opField_of_selects hr hrw).symm.trans (opField_of_selects hq hqw))

/-- Settles O5: the five assigned words, one unassigned opcode and one reserved bit, evaluated. -/
theorem writtenOutWordsDecode : Obligations.WrittenOutWordsDecode := by
  unfold Obligations.WrittenOutWordsDecode
  decide

/-- Settles O6: the word of each command as a number, with the operands reduced by their fields' types. -/
theorem assembledWordsPackReducedOperands : Obligations.AssembledWordsPackReducedOperands := by
  unfold Obligations.AssembledWordsPackReducedOperands
  refine ⟨fun t w => ?encTw, fun a v => ?encRaw, fun n => ?dec, fun t w => ?cksum, rfl⟩
  case encTw => rw [assembleEncTw, toNat_encode_encTw, BitVec.toNat_ofNat, BitVec.toNat_ofNat]; omega
  case encRaw => rw [assembleEncRaw, toNat_encode_encRaw, BitVec.toNat_ofNat, BitVec.toNat_ofNat]; omega
  case dec => rw [assembleDec, toNat_encode_dec, BitVec.toNat_ofNat]; omega
  case cksum => rw [assembleCksum, toNat_encode_cksum, BitVec.toNat_ofNat, BitVec.toNat_ofNat]; omega

end Sys2Proof

/-! PROOF. The 1 + DUR_W bits of a PulseSegment (30_encoding.md R101, R103). -/

namespace Sys2Proof.Machine

theorem toNat_levelBit (l : Level) : (levelBit l).toNat = if l = .on then 1 else 0 := by
  cases l <;> rfl

/-- The level weighs 2^DUR_W above the duration's DUR_W bits. -/
theorem toNat_packSegment (c : Config) (p : PulseSegment) :
    (packSegment c p).toNat = (levelBit p.level).toNat * 2 ^ c.durW + p.dur % 2 ^ c.durW := by
  have hsplit : (packSegment c p).toNat =
      (levelBit p.level).toNat * 2 ^ c.durW + (BitVec.ofNat c.durW p.dur).toNat := toNat_append_add _ _
  rw [hsplit, BitVec.toNat_ofNat]

theorem toNat_packSegment_of_lt {c : Config} {p : PulseSegment} (h : p.dur < 2 ^ c.durW) :
    (packSegment c p).toNat = (if p.level = .on then 2 ^ c.durW else 0) + p.dur := by
  rw [toNat_packSegment, toNat_levelBit, Nat.mod_eq_of_lt h]
  split <;> simp

theorem unpackSegment_dur (c : Config) (v : BitVec (1 + c.durW)) :
    (unpackSegment c v).dur = v.toNat % 2 ^ c.durW := by
  simp [unpackSegment]

/-- The level is what stands above the DUR_W bits of the duration, at most 1. -/
theorem toNat_levelBit_unpackSegment (c : Config) (v : BitVec (1 + c.durW)) :
    (levelBit (unpackSegment c v).level).toNat = v.toNat / 2 ^ c.durW := by
  have hlt : v.toNat / 2 ^ c.durW < 2 :=
    Nat.div_lt_of_lt_mul (v.isLt.trans_eq (by rw [Nat.add_comm, Nat.pow_succ]))
  have hbit : (v.getLsbD c.durW).toNat = v.toNat / 2 ^ c.durW % 2 := Nat.toNat_testBit _ _
  rw [toNat_levelBit, ← Nat.mod_eq_of_lt hlt, ← hbit, unpackSegment]
  cases v.getLsbD c.durW <;> rfl

theorem packSegment_unpackSegment (c : Config) (v : BitVec (1 + c.durW)) : packSegment c (unpackSegment c v) = v := by
  apply BitVec.eq_of_toNat_eq
  rw [toNat_packSegment, toNat_levelBit_unpackSegment, unpackSegment_dur, Nat.mod_mod, Nat.div_add_mod']

theorem toNat_levelBit_injective {l m : Level} (h : (levelBit l).toNat = (levelBit m).toNat) : l = m :=
  match l, m, h with
  | .off, .off, _ => rfl
  | .on, .on, _ => rfl

/-- Unpacking takes back both fields of a segment whose duration fits. -/
theorem unpackSegment_packSegment {c : Config} {p : PulseSegment} (h : p.dur < 2 ^ c.durW) :
    unpackSegment c (packSegment c p) = p := by
  have hdur : (unpackSegment c (packSegment c p)).dur = p.dur := by
    rw [unpackSegment_dur, toNat_packSegment, Nat.mul_add_mod_self_right, Nat.mod_mod, Nat.mod_eq_of_lt h]
  have hlevel : (unpackSegment c (packSegment c p)).level = p.level := by
    apply toNat_levelBit_injective
    rw [toNat_levelBit_unpackSegment, toNat_packSegment, Nat.mod_eq_of_lt h, Nat.add_comm,
      Nat.add_mul_div_right _ _ (Nat.two_pow_pos _), Nat.div_eq_of_lt h, Nat.zero_add]
  exact congrArg₂ PulseSegment.mk hlevel hdur

end Sys2Proof.Machine

namespace Sys2Proof

open Machine

/-- Settles O7: packing and unpacking undo each other for every DUR_W, and the six tokens evaluated. -/
theorem pulseSegmentPacking : Obligations.PulseSegmentPacking := by
  unfold Obligations.PulseSegmentPacking
  refine ⟨fun c p h => ⟨unpackSegment_packSegment h, toNat_packSegment_of_lt h⟩,
    fun c v => ⟨packSegment_unpackSegment c v, ?fits⟩, rfl, ?tokens⟩
  case fits => rw [unpackSegment_dur]; exact Nat.mod_lt _ (Nat.two_pow_pos _)
  case tokens => decide

end Sys2Proof

/-! PROOF. The invariant of the machine: the results and flags, the capture buffer, the emitted durations (10_state.md
sections 4 and 7, 20_memory.md sections 1, 5 and 6, 43_decoder.md section 3). -/

namespace Sys2Proof.Machine

/-- A failed decode's record (43_decoder.md R215) is a complete one, whatever the results were. -/
theorem ResultInv.after_failDecode {s : State} {code : DecErr} (hcode : code ≠ .none) (hidx : s.decIdx.toNat ≤ 40)
    (hheader : code = .malformedHeader → s.decIdx = 0) : ResultInv (failDecode s code) := by
  simpa [ResultInv, hcode] using ⟨hheader, hidx⟩

/-- The DONE step's record (43_decoder.md R208): CKMM compares the very frame that the results show. -/
theorem ResultInv.after_finishDecode (s : State) : ResultInv (finishDecode Config.hw s) := by
  simp [ResultInv, frameAddr_append_frameValue]

/-- Nothing but DEC, the decoder's last step and reset touches the results, the flags or IDLE. -/
theorem ResultInv.of_effect {s u : State} {t : Turn} (h : ResultInv s) (hdec : DecoderInv s) (he : TurnEffect s t u) :
    ResultInv u := by
  have hbusy : s.decSt ≠ .idle → ∀ st n, ResultInv { withFreeCount s n with decSt := st } := by
    obtain ⟨hdone, hrest⟩ := h
    exact fun hst st n => ⟨fun _ => hdone hst, hrest⟩
  obtain ⟨hidx, -, -, hawait, -, -⟩ := hdec
  cases he with
  | startsDecode n hi => simp [ResultInv]
  | failsHeader n hst => exact .after_failDecode nofun hidx (fun _ => (hawait hst).1)
  | findsHeader n hst => exact hbusy (by simp [hst]) _ n
  | failsSlot n code hst hcode =>
    rcases hcode with rfl | rfl
    · exact .after_failDecode nofun hidx nofun
    · exact .after_failDecode nofun hidx nofun
  | takesBit n b hst => exact hbusy (by simp [hst]) _ n
  | finishes hst => exact .after_finishDecode s
  | resets => simp [ResultInv, resetCore]
  | writesCapture i l d => rw [capWrite_state]; exact h
  | _ => exact h

/-- The capture buffer's invariant looks at the buffer, the record of the race, and whether a decode runs. -/
theorem CaptureInv.of_same {s u : State} (h : CaptureInv s) (hcap : u.cap = s.cap)
    (hover : u.overwritten = s.overwritten) (hst : u.decSt = .idle → s.decSt = .idle) : CaptureInv u := by
  obtain ⟨hwf, hentries, hidle, hrace⟩ := h
  rw [CaptureInv, hcap, hover]
  exact ⟨hwf, hentries, fun hu => hidle (hst hu), hrace⟩

/-- Where the record of the race is dropped only the buffer's own part is left. -/
theorem CaptureInv.of_noRace {s u : State} (h : CaptureInv s) (hcap : u.cap = s.cap) (hover : u.overwritten = []) :
    CaptureInv u := by
  obtain ⟨hwf, hentries, -, -⟩ := h
  rw [CaptureInv, hcap, hover]
  exact ⟨hwf, hentries, fun _ => rfl, nofun⟩

/-- What a CapWrite records of the entry it replaces fits, since the entry did. -/
theorem CaptureInv.fits_of_capGet {s : State} (h : CaptureInv s) {i : Nat} {p : PulseSegment}
    (hget : capGet s.cap i = some p) : fitsDurW p := by
  obtain ⟨-, hentries, -, -⟩ := h
  exact (hentries _ (mem_of_capGet hget)).2

/-- A capture write keeps the buffer canonical and inside CAP_DEPTH, and records only the entry it writes (20_memory.md
R70, R80; 40_port.md R131). -/
theorem CaptureInv.after_capWrite {s : State} (h : CaptureInv s) (i : BitVec 16) {p : PulseSegment}
    (hp : fitsDurW p) : CaptureInv (capWrite Config.hw s i p) := by
  by_cases hi : i.toNat < Config.hw.capDepth
  case neg => rwa [capWrite_of_ge (Nat.le_of_not_lt hi)]
  have hfits := @h.fits_of_capGet
  obtain ⟨hwf, hentries, hidle, hrace⟩ := h
  have hst : (capWrite Config.hw s i p).decSt = s.decSt := by rw [capWrite_state]
  have hwritten : ∀ j, capGet s.cap j ≠ none ∨ j = i.toNat → capGet (capWrite Config.hw s i p).cap j ≠ none := by
    intro j hj
    rw [capGet_capWrite_of_lt hi]
    split
    · exact nofun
    · next hne => exact hj.resolve_right hne
  refine ⟨capWrite_wf hwf i p, ?entries, fun hu => ?idle, ?race⟩
  case entries =>
    rw [capWrite_cap_of_lt hi]
    intro e he
    rcases capPut_index_mem he with rfl | he
    · exact ⟨hi, hp⟩
    · exact hentries e he
  case idle => rw [capWrite_overwritten_of_idle (hst ▸ hu), hidle (hst ▸ hu)]
  case race =>
    rw [capWrite_overwritten_of_lt hi]
    intro e he
    have hcases : e ∈ s.overwritten ∨ e = (i.toNat, capGet s.cap i.toNat) := by
      split at he
      · simpa using he
      · exact .inl he
    rcases hcases with he | rfl
    · exact ⟨hwritten _ (.inl (hrace e he).1), (hrace e he).2⟩
    · exact ⟨hwritten _ (.inr rfl), fun p hp => hfits hp⟩

/-- Every turn keeps the capture buffer's invariant. -/
theorem CaptureInv.of_effect {s u : State} {t : Turn} (h : CaptureInv s) (he : TurnEffect s t u) : CaptureInv u := by
  cases he with
  | startsDecode n hi => exact h.of_noRace rfl rfl
  | failsHeader n hst => exact h.of_noRace rfl rfl
  | findsHeader n hst => exact h.of_same rfl rfl nofun
  | failsSlot n code hst hcode => exact h.of_noRace rfl rfl
  | takesBit n b hst =>
    refine h.of_same rfl rfl fun hu => ?_
    dsimp only [takeBit] at hu
    split at hu <;> cases hu
  | finishes hst => exact h.of_noRace rfl rfl
  | resets => exact h.of_noRace rfl rfl
  | writesCapture i l d => exact h.after_capWrite i d.isLt
  | _ => exact h

/-- What a turn adds to EMITTED: one token of a busy encoder, or nothing (10_state.md R48, 20_memory.md R66). -/
theorem TurnEffect.emitted_cases {s u : State} {t : Turn} (he : TurnEffect s t u) :
    u.emitted = s.emitted ∨
      (t = .encoder ∧ s.encSt ≠ .idle ∧ ∃ p, fitsDurW p ∧ u.emitted = s.emitted ++ [p]) := by
  cases he with
  | emitsHeader h => exact .inr ⟨rfl, by simp [h], headerToken Config.hw, tokenDur_lt _ _, rfl⟩
  | emitsSlot h => exact .inr ⟨rfl, by simp [h], slotToken Config.hw s.encFrame s.encIdx.toNat, tokenDur_lt _ _, rfl⟩
  | emitsTrailer h => exact .inr ⟨rfl, by simp [h], trailerToken Config.hw, tokenDur_lt _ _, rfl⟩
  | writesCapture i l d => rw [capWrite_state]; exact .inl rfl
  | _ => exact .inl rfl

/-- Every turn keeps the emitted durations within DUR_W bits. -/
theorem EmittedInv.of_effect {s u : State} {t : Turn} (h : EmittedInv s) (he : TurnEffect s t u) : EmittedInv u := by
  rcases he.emitted_cases with hsame | ⟨-, -, p, hp, happend⟩
  · rwa [EmittedInv, hsame]
  · rw [EmittedInv, happend]
    intro q hq
    rcases List.mem_append.mp hq with hq | hq
    · exact h q hq
    · rwa [List.mem_singleton.mp hq]

/-- Every turn keeps the machine's invariant; the results' part needs the decoder's. -/
theorem MachineInv.of_effect {s u : State} {t : Turn} (h : MachineInv s) (he : TurnEffect s t u) : MachineInv u := by
  obtain ⟨henc, hdec, hres, hcap, hemit⟩ := h
  exact ⟨henc.of_effect he, hdec.of_effect he, hres.of_effect hdec he, hcap.of_effect he, hemit.of_effect he⟩

end Sys2Proof.Machine

namespace Sys2Proof

open Machine

/-- Settles O48: each part of the invariant is kept by every effect of a turn, and by taking the turn off. -/
theorem invariantKeptByEveryStep : Obligations.InvariantKeptByEveryStep := by
  unfold Obligations.InvariantKeptByEveryStep
  exact fun s t hs h => step_keeps (fun _ hv => hv) (fun _ _ _ hv he => hv.of_effect he) hs h

/-- Settles O47: at power-on both units are IDLE, the results are zero and nothing is captured or emitted. -/
theorem invariantHoldsAtReset : Obligations.InvariantHoldsAtReset := by
  unfold Obligations.InvariantHoldsAtReset
  refine ⟨encoderInv_powerOn [] [], decoderInv_powerOn [] [], ?results, ?capture, nofun⟩
  case results => simp [ResultInv, State.reset]
  case capture => exact ⟨reset_cap_wf, nofun, fun _ => rfl, nofun⟩

/-- Settles O53: what a turn can add to EMITTED, in the terms of the state the step starts from. -/
theorem emittedGrowsOnlyByEncoderTokens : Obligations.EmittedGrowsOnlyByEncoderTokens := by
  unfold Obligations.EmittedGrowsOnlyByEncoderTokens
  intro s t h
  rcases step_effect h with ⟨-, rfl⟩ | ⟨t, ts, hts, he⟩
  · exact .inl rfl
  · rcases he.emitted_cases with hsame | ⟨rfl, hbusy, p, -, happend⟩
    · exact .inl hsame
    · exact .inr ⟨by rw [hts]; rfl, hbusy, p, happend⟩

end Sys2Proof

/-! PROOF. STATUS as a number, and the results between and during decodes (10_state.md R37, 20_memory.md section 5,
70_reset_and_hazards.md R301). -/

namespace Sys2Proof.Machine

/-- STATUS as the sum of its fields' weights (10_state.md R37). -/
theorem toNat_statusWord (s : State) :
    (statusWord s).toNat = s.cmdErr.toNat * 128 + s.ckmm.toNat * 64 + (errCode s.decErr).toNat * 16 +
      s.decOk.toNat * 8 + s.decDone.toNat * 4 + (decBusy s).toNat * 2 + (encBusy s).toNat := by
  have hfields : (statusWord s).toNat =
      (((((((0#24).toNat * 2 ^ 1 + (BitVec.ofBool s.cmdErr).toNat) * 2 ^ 1 + (BitVec.ofBool s.ckmm).toNat) * 2 ^ 2 +
        (errCode s.decErr).toNat) * 2 ^ 1 + (BitVec.ofBool s.decOk).toNat) * 2 ^ 1 +
        (BitVec.ofBool s.decDone).toNat) * 2 ^ 1 + (BitVec.ofBool (decBusy s)).toNat) * 2 ^ 1 +
        (BitVec.ofBool (encBusy s)).toNat := by
    unfold statusWord
    simp only [← toNat_append_add]
  rw [hfields]
  simp only [BitVec.toNat_ofBool, BitVec.toNat_ofNat]
  omega

/-- A bit of a word, from the word as a number. -/
theorem getLsbD_eq_of_toNat {n : Nat} {w : BitVec n} {k : Nat} {b : Bool} (h : w.toNat / 2 ^ k % 2 = b.toNat) :
    w.getLsbD k = b := by
  rw [BitVec.getLsbD, Nat.testBit_eq_decide_div_mod_eq, h]
  cases b <;> rfl

/-- Bit 0 of STATUS (10_state.md R38). -/
theorem getLsbD_statusWord_encBusy (s : State) : (statusWord s).getLsbD 0 = encBusy s := by
  have hword := toNat_statusWord s
  have henc := Bool.toNat_lt (encBusy s)
  exact getLsbD_eq_of_toNat (by omega)

/-- Bit 1 of STATUS (10_state.md R39). -/
theorem getLsbD_statusWord_decBusy (s : State) : (statusWord s).getLsbD 1 = decBusy s := by
  have hword := toNat_statusWord s
  have henc := Bool.toNat_lt (encBusy s)
  have hdec := Bool.toNat_lt (decBusy s)
  exact getLsbD_eq_of_toNat (by omega)

/-- With no turn of a running decode, no accepted DEC and no reset, a turn keeps the results and the decode's flags
(20_memory.md section 5). -/
theorem TurnEffect.keeps_results {s u : State} {t : Turn} (he : TurnEffect s t u) (hs : s.decSt = .idle)
    (hreset : t ≠ .reset) (hu : u.decSt = .idle) :
    u.decValue = s.decValue ∧ u.decAddr = s.decAddr ∧ u.decBits = s.decBits ∧ u.decProto = s.decProto ∧
      u.decSlots = s.decSlots ∧ u.decDone = s.decDone ∧ u.decOk = s.decOk ∧ u.decErr = s.decErr ∧ u.ckmm = s.ckmm := by
  cases he with
  | startsDecode n hi => cases hu
  | failsHeader n hst => cases hs.symm.trans hst
  | findsHeader n hst => cases hu
  | failsSlot n code hst hcode => cases hs.symm.trans hst
  | takesBit n b hst => cases hs.symm.trans hst
  | finishes hst => cases hs.symm.trans hst
  | resets => exact absurd rfl hreset
  | writesCapture i l d => rw [capWrite_state]; simp
  | _ => exact ⟨rfl, rfl, rfl, rfl, rfl, rfl, rfl, rfl, rfl⟩

end Sys2Proof.Machine

namespace Sys2Proof

open Machine

/-- Settles O14: each field's weight in STATUS as a number, so each bit is that field's. -/
theorem statusWordLayout : Obligations.StatusWordLayout := by
  unfold Obligations.StatusWordLayout
  intro s
  have hword := toNat_statusWord s
  have henc := Bool.toNat_lt (encBusy s)
  have hdec := Bool.toNat_lt (decBusy s)
  have hdone := Bool.toNat_lt s.decDone
  have hok := Bool.toNat_lt s.decOk
  have hcode := (errCode s.decErr).isLt
  have hckmm := Bool.toNat_lt s.ckmm
  have hcmd := Bool.toNat_lt s.cmdErr
  have hfield : ∀ {k b}, (statusWord s).toNat / 2 ^ k % 2 = b.toNat → (statusWord s).getLsbD k = b :=
    getLsbD_eq_of_toNat
  refine ⟨?encBusy, ?decBusy, hfield (by omega), hfield (by omega), ?decErr, hfield (by omega), hfield (by omega),
    by omega⟩
  case encBusy => rw [getLsbD_statusWord_encBusy]; exact decide_eq_true_iff
  case decBusy => rw [getLsbD_statusWord_decBusy]; exact decide_eq_true_iff
  case decErr =>
    have hfieldErr : (statusWord s).toNat / 16 % 4 = (errCode s.decErr).toNat := by omega
    rw [hfieldErr]
    cases s.decErr <;> rfl

/-- Settles O50: a busy decoder has not set DEC_DONE, and without it the invariant leaves every result and flag zero. -/
theorem resultsReadZeroDuringDecode : Obligations.ResultsReadZeroDuringDecode := by
  unfold Obligations.ResultsReadZeroDuringDecode
  intro s hinv hbusy
  obtain ⟨-, -, ⟨hrunning, hnotDone, hnotOk, -⟩, -, -⟩ := hinv
  have hdone := hrunning hbusy
  obtain ⟨hok, herr, hslots⟩ := hnotDone hdone
  obtain ⟨hckmm, hvalue, haddr, hbits, hproto⟩ := hnotOk hok
  refine ⟨hvalue, ?addr, ?bits, ?proto, ?slots, ?status⟩
  case addr => simp [regAt, haddr]
  case bits => simp [regAt, hbits]
  case proto => simp [regAt, hproto]
  case slots => simp [regAt, hslots]
  case status =>
    have henc := Bool.toNat_lt (encBusy s)
    have hdec := Bool.toNat_lt (decBusy s)
    have hword := toNat_statusWord s
    have hcode : (errCode .none).toNat = 0 := rfl
    simp only [hckmm, herr, hok, hdone, hcode, Bool.toNat_false] at hword
    omega

/-- Settles O51: of the turns an IDLE decoder sees only DEC and reset touch the results, and DEC does not leave IDLE. -/
theorem resultsStayUntilNextDecode : Obligations.ResultsStayUntilNextDecode := by
  unfold Obligations.ResultsStayUntilNextDecode
  intro s t hs h hreset ht
  rcases step_effect h with ⟨-, rfl⟩ | ⟨turn, ts, hts, he⟩
  · simp
  · exact he.keeps_results (s := endTurn s) hs (fun hturn => hreset (by rw [hts, hturn]; rfl)) ht

end Sys2Proof

/-! PROOF. The commands at the port: what runs, what is held, and what each command leaves unchanged (40_port.md
sections 1, 3 and 4; 41_checksum.md section 2; 42_encoder.md sections 1 and 2; 43_decoder.md section 1). -/

namespace Sys2Proof.Machine

theorem encoderStep_of_trl {c : Config} {s : State} (h : s.encSt = .trl) : encoderStep c s = trailerStep c s := by
  simp [encoderStep, h]

theorem exec_nop (s : State) : exec .nop s = .next (acceptWord s) := rfl

theorem exec_encTw (t w : BitVec 8) (s : State) :
    exec (.encTw t w) s = .next (encodeCommand (frameTW Config.hw t w) s) := rfl

theorem exec_encRaw (a : BitVec 8) (v : BitVec 32) (s : State) :
    exec (.encRaw a v) s = .next (encodeCommand (frameRaw a v) s) := rfl

theorem exec_dec (n : BitVec 16) (s : State) : exec (.dec n) s = execDec n s := rfl

/-- Presenting a word that decodes runs its command (40_port.md R120). -/
theorem present_of_instr {s : State} {w : CmdWord} {ws : List CmdWord} {i : Instr} (hw : s.hostWords = w :: ws)
    (hd : decode w = .instr i) : present s = exec i s := by
  simp [present, hw, hd]

/-- The step of a turn that presents a word that decodes. -/
theorem step_of_present_turn {s : State} {ts : List Turn} {w : CmdWord} {ws : List CmdWord} {i : Instr}
    (hts : s.turns = .present :: ts) (hw : s.hostWords = w :: ws) (hd : decode w = .instr i) :
    step s = exec i (withTurns s ts) := by
  rw [step_of_turn hts, endTurn_of_turns hts]
  exact present_of_instr (s := withTurns s ts) hw hd

/-- A register read's turn logs the read, in the state without that turn. -/
theorem step_of_read_turn {s : State} {ts : List Turn} {a : BitVec 4} (h : s.turns = .read a :: ts) :
    step s = .next (logRead (withTurns s ts) a) := by
  rw [step_of_turn h, endTurn_of_turns h]
  rfl

/-- An encode command, accepted or held, touches the encoder's registers and the HOST's words alone. -/
theorem encodeCommand_state (f : Frame) (s : State) :
    encodeCommand f s = { s with
      encSt := (encodeCommand f s).encSt
      encFrame := (encodeCommand f s).encFrame
      encIdx := (encodeCommand f s).encIdx
      hostWords := (encodeCommand f s).hostWords } := by
  unfold encodeCommand
  split <;> rfl

/-- DEC, accepted or held, touches the decoder's registers and flags, the record of the race and the HOST's words
alone. -/
theorem execDec_state {n : BitVec 16} {s t : State} (h : execDec n s = .next t) :
    t = { s with
      decSt := t.decSt, decAcc := t.decAcc, decIdx := t.decIdx, decLen := t.decLen
      decValue := t.decValue, decAddr := t.decAddr, decBits := t.decBits, decProto := t.decProto
      decSlots := t.decSlots, decDone := t.decDone, decOk := t.decOk, decErr := t.decErr, ckmm := t.ckmm
      overwritten := t.overwritten, hostWords := t.hostWords } := by
  by_cases hi : s.decSt = .idle
  · rw [execDec_of_idle hi] at h; cases h; rfl
  · rw [execDec_of_busy hi] at h; cases h; rfl

/-- An accepted encode command takes the word and starts the encoder on its frame (42_encoder.md R161, R162). -/
theorem encodeCommand_accepted {s : State} (h : s.encSt = .idle) (f : Frame) :
    (encodeCommand f s).encSt = .hdr ∧ (encodeCommand f s).hostWords = s.hostWords.tail := by
  rw [encodeCommand_of_idle h]
  exact ⟨rfl, rfl⟩

/-- The DEC_LEN of this hardware: 64 entries at most (43_decoder.md R201). -/
theorem toNat_effectiveLen_hw (n : BitVec 16) : (effectiveLen Config.hw n).toNat = min n.toNat 64 := by
  rw [effectiveLen, BitVec.toNat_ofNat, hw_capDepth]
  omega

/-- The value a register read returns, by address: zero-extended, 0 at a reserved one (10_state.md R45). -/
theorem toNat_regAt (s : State) (a : BitVec 4) :
    (regAt s a).toNat = (match a.toNat with
      | 0 => (statusWord s).toNat
      | 1 => s.decValue.toNat
      | 2 => s.decAddr.toNat
      | 3 => s.decBits.toNat
      | 4 => s.decProto.toNat
      | 5 => s.decSlots.toNat
      | 6 => s.ckRes.toNat
      | _ => 0) := by
  unfold regAt
  generalize a.toNat = k
  match k with
  | 0 | 1 => rfl
  | 2 | 3 | 4 | 5 | 6 => exact BitVec.toNat_setWidth_of_le (by decide)
  | k + 7 => rfl

end Sys2Proof.Machine

namespace Sys2Proof

open Machine

/-- Settles O8: the turn presents the word at the port, and presenting runs what it decodes to. -/
theorem stepRunsTheDecodedCommand : Obligations.StepRunsTheDecodedCommand := by
  unfold Obligations.StepRunsTheDecodedCommand
  exact fun s ts w ws i hts hw hd _ => step_of_present_turn hts hw hd

/-- Settles O10: NOP takes the word off the HOST's list, which no register shows. -/
theorem nopOnlyTakesTheWord : Obligations.NopOnlyTakesTheWord := by
  unfold Obligations.NopOnlyTakesTheWord
  exact fun s => ⟨acceptWord s, exec_nop s, rfl, fun _ => rfl⟩

/-- Settles O11: the word at the port decodes to its command, whose meaning changes nothing while its unit is busy. -/
theorem commandForBusyUnitIsHeld : Obligations.CommandForBusyUnitIsHeld := by
  unfold Obligations.CommandForBusyUnitIsHeld
  refine fun s ts ws hts => ⟨fun t w hbusy hw => ?encTw, fun a v hbusy hw => ?encRaw, fun n hbusy hw => ?dec⟩
  case encTw =>
    rw [step_of_present_turn hts hw (decode_encode _), exec_encTw, encodeCommand_of_busy (s := withTurns s ts) hbusy]
    rfl
  case encRaw =>
    rw [step_of_present_turn hts hw (decode_encode _), exec_encRaw, encodeCommand_of_busy (s := withTurns s ts) hbusy]
    rfl
  case dec =>
    rw [step_of_present_turn hts hw (decode_encode _), exec_dec, execDec_of_busy (s := withTurns s ts) hbusy]
    rfl

/-- Settles O13: each command's own frame, accepted or held. -/
theorem commandFrames : Obligations.CommandFrames := by
  unfold Obligations.CommandFrames
  intro i s t h
  cases i with
  | nop => cases h; simp
  | encTw a b =>
    cases h
    rw [encodeCommand_state]
    exact ⟨by simp, fun _ => rfl, fun hi _ => absurd rfl (hi a b), by simp⟩
  | encRaw a v =>
    cases h
    rw [encodeCommand_state]
    exact ⟨by simp, fun _ => rfl, fun _ hi => absurd rfl (hi a v), by simp⟩
  | dec n =>
    rw [execDec_state h]
    exact ⟨by simp, fun _ => rfl, by simp, fun hi => absurd rfl (hi n)⟩
  | cksum a b =>
    cases h
    exact ⟨by simp, fun hi => absurd rfl (hi a b), by simp, by simp⟩

/-- Settles O15: the turn logs the register the address names. -/
theorem registerReadReturnsTheMap : Obligations.RegisterReadReturnsTheMap := by
  unfold Obligations.RegisterReadReturnsTheMap
  intro s ts a hts
  refine ⟨regAt s a, step_of_read_turn hts, ?value⟩
  case value => exact toNat_regAt s a

/-- Settles O16: the one write of CKSUM, the sum reduced mod 16 by the register's width; the examples evaluated. -/
theorem cksumWritesTheSumMod16 : Obligations.CksumWritesTheSumMod16 := by
  unfold Obligations.CksumWritesTheSumMod16
  have hsum : ∀ t w : BitVec 8,
      checksum Config.hw t w = BitVec.ofNat 4 ((0x0D + t.toNat + w.toNat) % 16) := fun t w =>
    BitVec.eq_of_toNat_eq (by rw [toNat_checksum, BitVec.toNat_ofNat, Nat.mod_mod]; rfl)
  refine ⟨fun s t w => ?writes, fun s u h => ?small, fun s u h => ?carries⟩
  case writes => rw [exec_cksum, hsum]; rfl
  case small => cases h; rw [setCkRes_ckRes]; decide
  case carries => cases h; rw [setCkRes_ckRes]; decide

/-- Settles O19: ENC.TW is an accepted encode of frameTW(t, w), which as a number is the concatenation of its fields. -/
theorem encTwLoadsItsFrame : Obligations.EncTwLoadsItsFrame := by
  unfold Obligations.EncTwLoadsItsFrame
  intro s t w hidle
  refine ⟨startEncode (acceptWord s) (frameTW Config.hw t w), ?accepted, rfl, ?frame, ?busy⟩
  case accepted => rw [exec_encTw, encodeCommand_of_idle hidle]
  case frame =>
    rw [startEncode_encFrame, frameTW_eq_frameRaw, toNat_frameRaw, toNat_packTW, hw_seedDefault, hw_fixedMarker,
      hw_ckOffset]
    simp only [BitVec.reduceToNat]
    omega
  case busy => exact getLsbD_statusWord_encBusy _

/-- Settles O20: ENC.RAW is an accepted encode of {A, V}, the low 40 bits of its word. -/
theorem encRawLoadsItsOperands : Obligations.EncRawLoadsItsOperands := by
  unfold Obligations.EncRawLoadsItsOperands
  intro s a v hidle
  refine ⟨startEncode (acceptWord s) (frameRaw a v), ?accepted, rfl, toNat_frameRaw a v, BitVec.eq_of_toNat_eq ?word⟩
  case accepted => rw [exec_encRaw, encodeCommand_of_idle hidle]
  case word =>
    rw [startEncode_encFrame, toNat_frameRaw, BitVec.extractLsb'_toNat, toNat_encode_encRaw]
    omega

/-- Settles O21: both commands encode one frame, since pack(t, w) is determined by its number. -/
theorem encTwIsEncRawOfThePackedFrame : Obligations.EncTwIsEncRawOfThePackedFrame := by
  unfold Obligations.EncTwIsEncRawOfThePackedFrame
  intro s t w v hv
  have hpack : v = packTW Config.hw t w := BitVec.eq_of_toNat_eq (hv.trans (toNat_packTW Config.hw t w).symm)
  rw [exec_encTw, exec_encRaw, frameTW_eq_frameRaw, hw_seedDefault, hpack]

/-- Settles O24: the encoder's turn in TRL is the trailer step, whose IDLE takes the waiting ENC word. -/
theorem trailerStepEndsTheEncode : Obligations.TrailerStepEndsTheEncode := by
  unfold Obligations.TrailerStepEndsTheEncode
  intro s ts hts hst
  refine ⟨trailerStep Config.hw (withTurns s ts), ?step, rfl, fun t w => ⟨_, exec_encTw t w _, ?encTw⟩,
    fun a x => ⟨_, exec_encRaw a x _, ?encRaw⟩⟩
  case step => rw [step_of_encoder_turn hts, encoderStep_of_trl (by simpa using hst)]
  case encTw => exact encodeCommand_accepted rfl _
  case encRaw => exact encodeCommand_accepted rfl _

/-- Settles O31: DEC accepted is `startDecode`, at this hardware's depth of 64. -/
theorem decClearsResultsAndStarts : Obligations.DecClearsResultsAndStarts := by
  unfold Obligations.DecClearsResultsAndStarts
  intro s n hidle
  exact ⟨startDecode Config.hw (acceptWord s) n, execDec_of_idle hidle n, rfl, toNat_effectiveLen_hw n,
    getLsbD_statusWord_decBusy _⟩

end Sys2Proof

/-! PROOF. Steps that stop, states that hold, and the configuration of this hardware (20_memory.md R65, 60_exceptions.md
sections 1, 7 and 8, 00_scope.md sections 4 and 5). -/

namespace Sys2Proof.Machine

theorem awaitHeaderStep_of_unwritten {c : Config} {s : State} (h : s.decLen ≠ 0) (hread : capRead c s 0 = none) :
    awaitHeaderStep c s = .fault (.unwrittenCapture 0) := by
  simp only [awaitHeaderStep, if_neg h, hread]

theorem readBitsStep_of_unwritten {c : Config} {s : State} (h : s.decIdx.toNat + 1 < s.decLen.toNat)
    (hread : capRead c s (s.decIdx.toNat + 1) = none) :
    readBitsStep c s = .fault (.unwrittenCapture (s.decIdx.toNat + 1)) := by
  simp [readBitsStep, Nat.not_le.mpr h, hread]

theorem nextCapRead_of_header {s : State} (hst : s.decSt = .awaitHeader) (h : s.decLen ≠ 0) :
    nextCapRead s = some 0 := by
  simp only [nextCapRead, hst, if_neg h]

theorem nextCapRead_of_slot {s : State} (hst : s.decSt = .readBits) (h : s.decIdx.toNat + 1 < s.decLen.toNat) :
    nextCapRead s = some (s.decIdx.toNat + 1) := by
  simp only [nextCapRead, hst, if_neg (Nat.not_le.mpr h)]

theorem decoderStep_of_idle {c : Config} {s : State} (hc : c.legal = true) (h : s.decSt = .idle) :
    decoderStep c s = .next s := by
  simp [decoderStep, hc, h]

/-- With no race, CapRead answers nothing for an entry never written (20_memory.md R65). -/
theorem capRead_of_unwritten {c : Config} {s : State} {i : Nat} (h : s.overwritten = [])
    (hget : capGet s.cap i = none) : capRead c s i = none :=
  capRead_eq_none_iff.mpr ⟨oldValues_of_overwritten_nil h i, hget⟩

/-- The reads of a decoder's turn are those `nextCapRead` names: a read that answers nothing is the one way a legal
configuration's decoder stops (20_memory.md R65, 60_exceptions.md R266). -/
theorem decoderStep_stops {c : Config} (hc : c.legal = true) (s : State) :
    (∃ t, decoderStep c s = .next t) ∨
      ∃ i, decoderStep c s = .fault (.unwrittenCapture i) ∧ nextCapRead s = some i ∧ i < s.decLen.toNat ∧
        capRead c s i = none := by
  cases hst : s.decSt with
  | idle => exact .inl ⟨_, decoderStep_of_idle hc hst⟩
  | done => exact .inl ⟨_, decoderStep_of_done hc hst⟩
  | awaitHeader =>
    rw [decoderStep_of_awaitHeader hc hst]
    by_cases hlen : s.decLen = 0
    · exact .inl ⟨_, awaitHeaderStep_of_absent hlen⟩
    · cases hread : capRead c s 0 with
      | some r => exact .inl ⟨_, awaitHeaderStep_of_capRead hlen hread⟩
      | none =>
        have hpos : 0 < s.decLen.toNat := Nat.pos_of_ne_zero fun h0 => hlen (BitVec.eq_of_toNat_eq h0)
        exact .inr ⟨0, awaitHeaderStep_of_unwritten hlen hread, nextCapRead_of_header hst hlen, hpos, hread⟩
  | readBits =>
    rw [decoderStep_of_readBits hc hst]
    by_cases hlen : s.decLen.toNat ≤ s.decIdx.toNat + 1
    · exact .inl ⟨_, readBitsStep_of_absent hlen⟩
    · have hlt := Nat.lt_of_not_le hlen
      cases hread : capRead c s (s.decIdx.toNat + 1) with
      | some r => exact .inl ⟨_, readBitsStep_of_capRead hlt hread⟩
      | none =>
        exact .inr ⟨_, readBitsStep_of_unwritten hlt hread, nextCapRead_of_slot hst hlt, hlt, hread⟩

/-- No turn but the decoder's can stop the machine (60_exceptions.md R266). -/
theorem takeTurn_answers_next {t : Turn} (h : t ≠ .decoder) (s : State) : ∃ u, takeTurn t s = .next u := by
  cases t with
  | present =>
    rcases present_cases s with ⟨-, e⟩ | ⟨w, ws, i, -, -, e⟩ | ⟨w, ws, why, -, -, e⟩
    · exact ⟨s, e⟩
    · obtain ⟨u, hu⟩ := exec_answers_next i s
      exact ⟨u, e.trans hu⟩
    · exact ⟨_, e⟩
  | read a => exact ⟨_, rfl⟩
  | capWrite i l d => exact ⟨_, rfl⟩
  | encoder => exact ⟨_, rfl⟩
  | decoder => exact absurd rfl h
  | reset => exact ⟨_, rfl⟩

/-- How a step can go: it answers a next state, or it is a decoder's turn whose read answers nothing. -/
theorem step_stops (s : State) :
    (∃ t, step s = .next t) ∨
      (s.turns.head? = some .decoder ∧ ∃ i, step s = .fault (.unwrittenCapture i) ∧ nextCapRead s = some i ∧
        i < s.decLen.toNat ∧ capGet s.cap i = none) := by
  cases hts : s.turns with
  | nil => exact .inl ⟨s, step_of_no_turn hts⟩
  | cons t ts =>
    by_cases ht : t = .decoder
    case neg =>
      rw [step_of_turn hts]
      exact .inl (takeTurn_answers_next ht _)
    subst ht
    rw [step_of_decoder_turn hts]
    rcases decoderStep_stops hw_legal (withTurns s ts) with hnext | ⟨i, hfault, hread, hlt, hnone⟩
    · exact .inl hnext
    · exact .inr ⟨rfl, i, hfault, hread, hlt, (capRead_eq_none_iff.mp hnone).2⟩

/-- An ended run takes a step to an ended run, with nothing changed but the schedule (60_exceptions.md R277, R278). -/
theorem step_of_runOver {s : State} (h : runOver s) :
    ∃ ts, step s = .next (withTurns s ts) ∧ runOver (withTurns s ts) := by
  obtain ⟨⟨henc, hdec⟩, hwords, hturns⟩ := h
  cases hts : s.turns with
  | nil => exact ⟨s.turns, step_of_no_turn hts, ⟨henc, hdec⟩, hwords, hturns⟩
  | cons t ts =>
    rw [hts] at hturns
    obtain ⟨ht, hrest⟩ := List.forall_mem_cons.mp hturns
    refine ⟨ts, ?step, ⟨henc, hdec⟩, hwords, hrest⟩
    rw [step_of_turn hts, endTurn_of_turns hts]
    rcases ht with rfl | rfl | rfl
    · rcases present_cases (withTurns s ts) with ⟨-, e⟩ | ⟨w, ws, i, hw, -⟩ | ⟨w, ws, why, hw, -⟩
      · exact e
      · cases hwords.symm.trans hw
      · cases hwords.symm.trans hw
    · exact congrArg _ (encoderStep_of_idle (s := withTurns s ts) henc)
    · exact decoderStep_of_idle (s := withTurns s ts) hw_legal hdec

end Sys2Proof.Machine

namespace Sys2Proof

open Machine

/-- Settles O44: with no race the read of an entry never written answers nothing, and both reading steps then fault. -/
theorem unwrittenEntryReadFaults : Obligations.UnwrittenEntryReadFaults := by
  unfold Obligations.UnwrittenEntryReadFaults
  intro s ts hts hrace
  rw [step_of_decoder_turn hts]
  refine ⟨fun hst hlen hget => ?header, fun hst hlen hget => ?slot⟩
  case header =>
    rw [decoderStep_of_awaitHeader hw_legal (by simpa using hst)]
    exact awaitHeaderStep_of_unwritten (s := withTurns s ts) hlen (capRead_of_unwritten hrace hget)
  case slot =>
    rw [decoderStep_of_readBits hw_legal (by simpa using hst)]
    exact readBitsStep_of_unwritten (s := withTurns s ts) hlen (capRead_of_unwritten hrace hget)

/-- Settles O46: the fields as the power-on state writes them; the registers they give. -/
theorem powerOnValues : Obligations.PowerOnValues := by
  unfold Obligations.PowerOnValues
  exact ⟨rfl, rfl, rfl, rfl, rfl, rfl, rfl, rfl, rfl, rfl, regAt_reset, fun _ => rfl⟩

/-- Settles O56: the one way a step can stop, read off its two outcomes. -/
theorem onlyUnwrittenReadsStopTheMachine : Obligations.OnlyUnwrittenReadsStopTheMachine := by
  unfold Obligations.OnlyUnwrittenReadsStopTheMachine
  intro s
  rcases step_stops s with ⟨t, hnext⟩ | ⟨hturn, i, hfault, hread, hlt, hnone⟩
  · rw [hnext]
    exact ⟨nofun, nofun⟩
  · rw [hfault]
    refine ⟨nofun, fun r hr => ?_⟩
    cases hr
    exact ⟨hturn, i, rfl, hlt, hread, hnone⟩

/-- Settles O57: with no turn no step is taken, and an IDLE unit's turn is the identity. -/
theorem quiescentStateHolds : Obligations.QuiescentStateHolds := by
  unfold Obligations.QuiescentStateHolds
  rintro s ⟨henc, hdec⟩
  refine ⟨step_of_no_turn, fun ts hts => ?_⟩
  rcases hts with hts | hts
  · rw [step_of_encoder_turn hts, encoderStep_of_idle (s := withTurns s ts) henc]
    rfl
  · rw [step_of_decoder_turn hts, decoderStep_of_idle (s := withTurns s ts) hw_legal hdec]
    rfl

/-- Settles O58: each step of an ended run changes only the schedule, which no observation shows. -/
theorem observationOfAnEndedRunIsFinal : Obligations.ObservationOfAnEndedRunIsFinal := by
  unfold Obligations.ObservationOfAnEndedRunIsFinal
  intro s k hover
  induction k generalizing s with
  | zero => exact ⟨s, rfl, hover, rfl⟩
  | succ k ih =>
    obtain ⟨ts, hstep, hover'⟩ := step_of_runOver hover
    obtain ⟨t, hrun, hend, hobs⟩ := ih _ hover'
    exact ⟨t, by rw [runSteps, hstep]; exact hrun, hend, hobs⟩

/-- Settles O59: the constants as they are written, and the derived bands' order and fit for any tolerance up to 33. -/
theorem configurationOfThisHardware : Obligations.ConfigurationOfThisHardware := by
  unfold Obligations.ConfigurationOfThisHardware
  refine ⟨⟨rfl, rfl, rfl, rfl, rfl, rfl, rfl, rfl, rfl⟩, ⟨rfl, rfl, rfl, rfl, rfl, rfl, rfl, rfl, rfl⟩, rfl,
    fun p tol htol => ?legal, fun p => rfl⟩
  case legal =>
    rw [Config.legal_iff]
    refine ⟨?ordered, ?fit, rfl, rfl, decide_eq_true htol, rfl⟩
    case ordered => simp only [Config.bandsOrdered, Bool.and_eq_true, decide_eq_true_eq]; omega
    case fit => rw [Config.bandsFit_iff]; dsimp only; omega

end Sys2Proof

/-! PROOF. What a turn leaves of the state outside its unit: held words, the order of the units' turns, and the
entries a decode never reads (40_port.md section 1, 10_state.md section 1, 20_memory.md section 5, 43_decoder.md
section 4). -/

namespace Sys2Proof.Machine

theorem TurnEffect.keeps_hostWords {s u : State} {t : Turn} (he : TurnEffect s t u) (hpresent : t ≠ .present) :
    u.hostWords = s.hostWords := by
  cases he with
  | presentsNothing | isHeld | acceptsNop | startsEncode | startsDecode | writesChecksum | recordsIllegal =>
    exact absurd rfl hpresent
  | writesCapture i l d => rw [capWrite_state]
  | _ => rfl

/-- Only presenting, the encoder and reset move ENC_ST (42_encoder.md R161 to R168). -/
theorem TurnEffect.keeps_encSt {s u : State} {t : Turn} (he : TurnEffect s t u) (hpresent : t ≠ .present)
    (henc : t ≠ .encoder) (hreset : t ≠ .reset) : u.encSt = s.encSt := by
  cases he with
  | presentsNothing | isHeld | acceptsNop | startsEncode | startsDecode | writesChecksum | recordsIllegal =>
    exact absurd rfl hpresent
  | encoderIdle | emitsHeader | emitsSlot | emitsTrailer => exact absurd rfl henc
  | resets => exact absurd rfl hreset
  | writesCapture i l d => rw [capWrite_state]
  | _ => rfl

/-- Only presenting, the decoder and reset move DEC_ST (43_decoder.md R200 to R208). -/
theorem TurnEffect.keeps_decSt {s u : State} {t : Turn} (he : TurnEffect s t u) (hpresent : t ≠ .present)
    (hdec : t ≠ .decoder) (hreset : t ≠ .reset) : u.decSt = s.decSt := by
  cases he with
  | presentsNothing | isHeld | acceptsNop | startsEncode | startsDecode | writesChecksum | recordsIllegal =>
    exact absurd rfl hpresent
  | decoderIdle | failsHeader | findsHeader | failsSlot | takesBit | finishes => exact absurd rfl hdec
  | resets => exact absurd rfl hreset
  | writesCapture i l d => rw [capWrite_state]
  | _ => rfl

/-- A word whose command changes nothing while its unit is `busy` stays with the HOST, and all behind it, for as long as
the turns keep the unit so (40_port.md R121, R124). -/
theorem runTurns_holds_word {busy : State → Prop} {w : CmdWord} {ws : List CmdWord} {i : Instr} {ts : List Turn}
    {s t : State} (hd : decode w = .instr i) (hheld : ∀ s, busy s → exec i s = .next s)
    (hschedule : ∀ s us, busy s → busy (withTurns s us))
    (hkeep : ∀ turn ∈ ts, turn ≠ .present → ∀ s u, busy s → TurnEffect s turn u → busy u)
    (hs : busy s) (hw : s.hostWords = w :: ws) (hrun : runTurns ts s = .next t) : t.hostWords = w :: ws := by
  induction ts generalizing s with
  | nil => cases hrun; exact hw
  | cons turn ts ih =>
    obtain ⟨u, hturn, hrest⟩ := runTurns_cons_next hrun
    have hkeep' : ∀ turn ∈ ts, turn ≠ .present → ∀ s u, busy s → TurnEffect s turn u → busy u :=
      fun turn hmem => hkeep turn (List.mem_cons_of_mem _ hmem)
    have hs' : busy (withTurns s ts) := hschedule s ts hs
    have hw' : (withTurns s ts).hostWords = w :: ws := hw
    by_cases hp : turn = .present
    · subst hp
      rw [takeTurn, present_of_instr hw' hd, hheld _ hs'] at hturn
      cases hturn
      exact ih hkeep' hs' hw' hrest
    · have heff := takeTurn_effect hturn
      exact ih hkeep' (hkeep turn List.mem_cons_self hp _ u hs' heff) ((heff.keeps_hostWords hp).trans hw') hrest

/-- The word of an encode command behind a busy encoder, without a turn of the encoder or a reset. -/
theorem runTurns_holds_encode_word {w : CmdWord} {ws : List CmdWord} {i : Instr} {ts : List Turn} {s t : State}
    (hd : decode w = .instr i) (hheld : ∀ s : State, s.encSt ≠ .idle → exec i s = .next s) (hs : s.encSt ≠ .idle)
    (hw : s.hostWords = w :: ws) (hreset : .reset ∉ ts) (henc : .encoder ∉ ts) (hrun : runTurns ts s = .next t) :
    t.hostWords = w :: ws := by
  refine runTurns_holds_word (busy := fun s => s.encSt ≠ .idle) hd hheld (fun _ _ hb => hb) ?keep hs hw hrun
  case keep =>
    intro turn hmem hpresent s u hb he
    rwa [he.keeps_encSt hpresent (fun h => henc (h ▸ hmem)) (fun h => hreset (h ▸ hmem))]

/-- What a decoder's turn leaves: all but the decoder's registers and flags, the record of the race and the count of
free values (10_state.md section 1). -/
theorem TurnEffect.decoder_state {s u : State} (he : TurnEffect s .decoder u) :
    u = { s with
      decSt := u.decSt, decAcc := u.decAcc, decIdx := u.decIdx
      decValue := u.decValue, decAddr := u.decAddr, decBits := u.decBits, decProto := u.decProto
      decSlots := u.decSlots, decDone := u.decDone, decOk := u.decOk, decErr := u.decErr, ckmm := u.ckmm
      overwritten := u.overwritten, freeCount := u.freeCount } := by
  cases he <;> rfl

/-- The state `s` with the encoder's moving parts those of `v`: all that an encoder's turn may change. -/
def withEncoder (s v : State) : State :=
  { s with encSt := v.encSt, encIdx := v.encIdx, emitted := v.emitted }

theorem encoderStep_eq_withEncoder (c : Config) (s : State) : encoderStep c s = withEncoder s (encoderStep c s) := by
  rcases encoderStep_cases c s with ⟨-, e⟩ | ⟨-, e⟩ | ⟨-, e⟩ | ⟨-, e⟩ <;> rw [e] <;> rfl

/-- An encoder's turn goes by the encoder's own registers (10_state.md section 1). -/
theorem encoderStep_of_same_encoder {c : Config} {s u : State} (hst : u.encSt = s.encSt)
    (hframe : u.encFrame = s.encFrame) (hidx : u.encIdx = s.encIdx) (hemit : u.emitted = s.emitted) :
    encoderStep c u = withEncoder u (encoderStep c s) := by
  rcases encoderStep_cases c s with ⟨h, e⟩ | ⟨h, e⟩ | ⟨h, e⟩ | ⟨h, e⟩ <;> rw [e]
  · rw [encoderStep_of_idle (hst.trans h), withEncoder, ← hst, ← hidx, ← hemit]
  · rw [encoderStep_of_hdr (hst.trans h)]
    simp [headerStep, emit, withEncoder, hemit, hidx]
  · rw [encoderStep_of_slot (hst.trans h)]
    simp [slotStep, emit, withEncoder, hemit, hidx, hframe]
  · rw [encoderStep_of_trl (hst.trans h)]
    simp [trailerStep, emit, withEncoder, hemit, hidx]

/-- An outcome with its next state changed by `f`. -/
def mapNext (f : State → State) : Host.Outcome State Fault Refusal → Host.Outcome State Fault Refusal
  | .next s => .next (f s)
  | .fault r => .fault r
  | .refused r => .refused r

@[simp] theorem mapNext_next (f : State → State) (s : State) : mapNext f (.next s) = .next (f s) := rfl
@[simp] theorem mapNext_fault (f : State → State) (r : Fault) : mapNext f (.fault r) = .fault r := rfl
@[simp] theorem mapNext_refused (f : State → State) (r : Refusal) : mapNext f (.refused r) = .refused r := rfl

theorem mapNext_congr {f g : State → State} {o : Host.Outcome State Fault Refusal}
    (h : ∀ s, o = .next s → f s = g s) : mapNext f o = mapNext g o := by
  cases o with
  | next s => rw [mapNext_next, mapNext_next, h s rfl]
  | fault r => rfl
  | refused r => rfl

/-- A change of the state that no step of the decoder, apart from its reads, sees or touches. -/
structure DecoderBlind (c : Config) (f : State → State) : Prop where
  decSt (s : State) : (f s).decSt = s.decSt
  decIdx (s : State) : (f s).decIdx = s.decIdx
  decLen (s : State) : (f s).decLen = s.decLen
  found (s : State) : { f s with decSt := .readBits } = f { s with decSt := .readBits }
  takeBit (s : State) (b : Bool) : takeBit c (f s) b = f (takeBit c s b)
  failDecode (s : State) (code : DecErr) : failDecode (f s) code = f (failDecode s code)
  finishDecode (s : State) : finishDecode c (f s) = f (finishDecode c s)

theorem DecoderBlind.takeSlot {c : Config} {f : State → State} (hf : DecoderBlind c f) (p : PulseSegment) (s : State) :
    takeSlot c p (f s) = f (takeSlot c p s) := by
  by_cases hlevel : p.level = slotLevel s.decIdx.toNat
  case neg =>
    rw [takeSlot_of_wrongLevel hlevel, takeSlot_of_wrongLevel (by rwa [hf.decIdx]), hf.failDecode]
  have hlevel' : p.level = slotLevel (f s).decIdx.toNat := by rwa [hf.decIdx]
  cases hd : classify c p.dur with
  | none => rw [takeSlot_of_outOfBand hlevel hd, takeSlot_of_outOfBand hlevel' hd, hf.failDecode]
  | some b => rw [takeSlot_of_classified hlevel hd, takeSlot_of_classified hlevel' hd, hf.takeBit]

/-- A decoder's step commutes with a change it is blind to, if the entry it reads, where it reads one, is not changed.
-/
theorem DecoderBlind.decoderStep {c : Config} {f : State → State} (hf : DecoderBlind c f) {s : State}
    (hread : ∀ i, nextCapRead s = some i → capRead c (f s) i = (capRead c s i).map fun r => (r.1, f r.2)) :
    decoderStep c (f s) = mapNext f (decoderStep c s) := by
  by_cases hc : c.legal = true
  case neg => rw [decoderStep_illegal (by simpa using hc), decoderStep_illegal (by simpa using hc), mapNext_refused]
  have hst' := hf.decSt s
  cases hst : s.decSt with
  | idle => rw [decoderStep_of_idle hc hst, decoderStep_of_idle hc (hst'.trans hst), mapNext_next]
  | done => rw [decoderStep_of_done hc hst, decoderStep_of_done hc (hst'.trans hst), mapNext_next, hf.finishDecode]
  | awaitHeader =>
    rw [decoderStep_of_awaitHeader hc hst, decoderStep_of_awaitHeader hc (hst'.trans hst)]
    by_cases hlen : s.decLen = 0
    case pos =>
      rw [awaitHeaderStep_of_absent hlen, awaitHeaderStep_of_absent ((hf.decLen s).trans hlen), mapNext_next,
        hf.failDecode]
    have hlen' : (f s).decLen ≠ 0 := by rwa [hf.decLen]
    have hentry := hread 0 (nextCapRead_of_header hst hlen)
    cases hr : capRead c s 0 with
    | none =>
      rw [hr] at hentry
      rw [awaitHeaderStep_of_unwritten hlen hr, awaitHeaderStep_of_unwritten hlen' hentry, mapNext_fault]
    | some r =>
      rw [hr] at hentry
      rw [awaitHeaderStep_of_capRead hlen hr, awaitHeaderStep_of_capRead hlen' hentry, mapNext_next]
      split
      · rw [hf.found]
      · rw [hf.failDecode]
  | readBits =>
    rw [decoderStep_of_readBits hc hst, decoderStep_of_readBits hc (hst'.trans hst)]
    have hidx := hf.decIdx s
    by_cases hlen : s.decLen.toNat ≤ s.decIdx.toNat + 1
    case pos =>
      have hlen' : (f s).decLen.toNat ≤ (f s).decIdx.toNat + 1 := by rwa [hf.decLen, hidx]
      rw [readBitsStep_of_absent hlen, readBitsStep_of_absent hlen', mapNext_next, hf.failDecode]
    have hlt := Nat.lt_of_not_le hlen
    have hlt' : (f s).decIdx.toNat + 1 < (f s).decLen.toNat := by rwa [hf.decLen, hidx]
    have hentry := hread _ (nextCapRead_of_slot hst hlt)
    rw [← hidx] at hentry
    cases hr : capRead c s (s.decIdx.toNat + 1) with
    | none =>
      rw [hidx, hr, ← hidx] at hentry
      rw [readBitsStep_of_unwritten hlt hr, readBitsStep_of_unwritten hlt' hentry, mapNext_fault, hidx]
    | some r =>
      rw [hidx, hr, ← hidx] at hentry
      rw [readBitsStep_of_capRead hlt hr, readBitsStep_of_capRead hlt' hentry, mapNext_next, hf.takeSlot]

theorem decoderBlind_withEncoder (c : Config) (v : State) : DecoderBlind c (fun s => withEncoder s v) :=
  ⟨fun _ => rfl, fun _ => rfl, fun _ => rfl, fun _ => rfl, fun _ _ => rfl, fun _ _ => rfl, fun _ => rfl⟩

theorem decoderBlind_withTurns (c : Config) (ts : List Turn) : DecoderBlind c (fun s => withTurns s ts) :=
  ⟨fun _ => rfl, fun _ => rfl, fun _ => rfl, fun _ => rfl, fun _ _ => rfl, fun _ _ => rfl, fun _ => rfl⟩

/-- CapRead looks at the buffer, the record of the race and the count of free values, and changes the last alone. -/
theorem capRead_withEncoder (c : Config) (s v : State) (i : Nat) :
    capRead c (withEncoder s v) i = (capRead c s i).map fun r => (r.1, withEncoder r.2 v) := by
  by_cases hrace : oldValues s i = []
  · rw [capRead_eq_of_no_race hrace, capRead_eq_of_no_race (s := withEncoder s v) hrace, Option.map_map]
    rfl
  · rw [capRead_eq_of_race hrace, capRead_eq_of_race (s := withEncoder s v) hrace]
    rfl

theorem capRead_withTurns (c : Config) (s : State) (ts : List Turn) (i : Nat) :
    capRead c (withTurns s ts) i = (capRead c s i).map fun r => (r.1, withTurns r.2 ts) := by
  by_cases hrace : oldValues s i = []
  · rw [capRead_eq_of_no_race hrace, capRead_eq_of_no_race (s := withTurns s ts) hrace, Option.map_map]
    rfl
  · rw [capRead_eq_of_race hrace, capRead_eq_of_race (s := withTurns s ts) hrace]
    rfl

/-- The units' turns commute: neither touches a register the other reads (20_memory.md section 5). -/
theorem decoderStep_encoderStep (s : State) :
    decoderStep Config.hw (encoderStep Config.hw s) = mapNext (encoderStep Config.hw) (decoderStep Config.hw s) := by
  calc decoderStep Config.hw (encoderStep Config.hw s)
    _ = decoderStep Config.hw (withEncoder s (encoderStep Config.hw s)) := by rw [← encoderStep_eq_withEncoder]
    _ = mapNext (fun u => withEncoder u (encoderStep Config.hw s)) (decoderStep Config.hw s) :=
      (decoderBlind_withEncoder _ _).decoderStep fun i _ => capRead_withEncoder _ s _ i
    _ = mapNext (encoderStep Config.hw) (decoderStep Config.hw s) := mapNext_congr fun u hu => ?_
  have hframe := (decoderStep_effect hu).decoder_state
  exact (encoderStep_of_same_encoder (by rw [hframe]) (by rw [hframe]) (by rw [hframe]) (by rw [hframe])).symm

theorem encoderStep_withTurns (c : Config) (s : State) (ts : List Turn) :
    encoderStep c (withTurns s ts) = withTurns (encoderStep c s) ts := by
  calc encoderStep c (withTurns s ts)
    _ = withEncoder (withTurns s ts) (encoderStep c s) := encoderStep_of_same_encoder rfl rfl rfl rfl
    _ = withTurns (withEncoder s (encoderStep c s)) ts := rfl
    _ = withTurns (encoderStep c s) ts := by rw [← encoderStep_eq_withEncoder]

theorem decoderStep_withTurns (c : Config) (s : State) (ts : List Turn) :
    decoderStep c (withTurns s ts) = mapNext (fun u => withTurns u ts) (decoderStep c s) :=
  (decoderBlind_withTurns c ts).decoderStep fun i _ => capRead_withTurns c s ts i

/-- An encoder's turn at the head of a run. -/
theorem runTurns_encoder_cons (ts : List Turn) (s : State) :
    runTurns (.encoder :: ts) s = runTurns ts (encoderStep Config.hw s) := by
  rw [runTurns_cons, takeTurn, encoderStep_withTurns]
  rfl

/-- A decoder's turn at the head of a run. -/
theorem runTurns_decoder_cons (ts : List Turn) (s : State) :
    runTurns (.decoder :: ts) s =
      match decoderStep Config.hw s with
      | .next u => runTurns ts u
      | .fault r => .fault r
      | .refused r => .refused r := by
  rw [runTurns_cons, takeTurn, decoderStep_withTurns]
  cases decoderStep Config.hw s <;> rfl

/-- The state `s` with its capture buffer replaced. -/
def withCap (m : Memory) (s : State) : State :=
  { s with cap := m }

theorem decoderBlind_withCap (c : Config) (m : Memory) : DecoderBlind c (withCap m) :=
  ⟨fun _ => rfl, fun _ => rfl, fun _ => rfl, fun _ => rfl, fun _ _ => rfl, fun _ _ => rfl, fun _ => rfl⟩

/-- With no race, CapRead of an entry on which two buffers agree. -/
theorem capRead_withCap {c : Config} {m : Memory} {s : State} {i : Nat} (hrace : s.overwritten = [])
    (h : capGet m i = capGet s.cap i) :
    capRead c (withCap m s) i = (capRead c s i).map fun r => (r.1, withCap m r.2) := by
  rw [capRead_eq_of_no_race (oldValues_of_overwritten_nil hrace i),
    capRead_eq_of_no_race (s := withCap m s) (oldValues_of_overwritten_nil hrace i), withCap, h, Option.map_map]
  rfl

/-- Taking a bit below slot 40 counts it, and goes to DONE after slot 39 (43_decoder.md R205). -/
theorem takeBit_cases {s : State} (h : s.decIdx.toNat < 40) (b : Bool) :
    (takeBit Config.hw s b).decIdx.toNat = s.decIdx.toNat + 1 ∧
      ((s.decIdx.toNat + 1 = 40 ∧ (takeBit Config.hw s b).decSt = .done) ∨
       ((takeBit Config.hw s b).decIdx.toNat < 40 ∧ (takeBit Config.hw s b).decSt = .readBits)) := by
  have hidx : (takeBit Config.hw s b).decIdx.toNat = s.decIdx.toNat + 1 := toNat_slotIndex_succ h
  refine ⟨hidx, ?_⟩
  by_cases hlast : s.decIdx.toNat + 1 = 40
  · exact .inl ⟨hlast, if_pos hlast⟩
  · exact .inr ⟨by omega, if_neg hlast⟩

/-- A decode with no race whose reads so far and to come are of entries 0..40 (43_decoder.md R204, R205). -/
structure ReadsWithinFrame (m : Memory) (s : State) : Prop where
  overwritten : s.overwritten = []
  slot : s.decSt = .readBits → s.decIdx.toNat < 40
  header : s.decSt = .awaitHeader → s.decIdx = 0
  agree : ∀ i ≤ 40, capGet m i = capGet s.cap i

theorem ReadsWithinFrame.nextCapRead_le {m : Memory} {s : State} (h : ReadsWithinFrame m s) {i : Nat}
    (hi : nextCapRead s = some i) : i ≤ 40 := by
  have hslot := h.slot
  unfold nextCapRead at hi
  split at hi
  · cases hi
  · split at hi <;> cases hi
    exact Nat.zero_le 40
  · next hst =>
    split at hi <;> cases hi
    exact hslot hst
  · cases hi

/-- Every decoder's turn keeps a decode's reads within the frame's entries. -/
theorem ReadsWithinFrame.of_effect {m : Memory} {s u : State} (h : ReadsWithinFrame m s)
    (he : TurnEffect s .decoder u) : ReadsWithinFrame m u := by
  obtain ⟨hrace, hslot, hheader, hagree⟩ := h
  cases he with
  | decoderIdle hst => exact ⟨hrace, hslot, hheader, hagree⟩
  | failsHeader n hst => exact ⟨rfl, nofun, nofun, hagree⟩
  | findsHeader n hst =>
    have hidx : s.decIdx.toNat < 40 := by simp [hheader hst]
    exact ⟨hrace, fun _ => hidx, nofun, hagree⟩
  | failsSlot n code hst hcode => exact ⟨rfl, nofun, nofun, hagree⟩
  | takesBit n b hst =>
    rcases takeBit_cases (s := withFreeCount s n) (hslot hst) b with ⟨-, ⟨-, hnext⟩ | ⟨hlt, hnext⟩⟩
    · exact ⟨hrace, by simp [hnext], by simp [hnext], hagree⟩
    · exact ⟨hrace, fun _ => hlt, by simp [hnext], hagree⟩
  | finishes hst => exact ⟨rfl, nofun, nofun, hagree⟩

/-- Two captures that agree on the entries 0..40 give the same decode, step for step (43_decoder.md R210). -/
theorem decoderRun_withCap {m : Memory} {k : Nat} {s : State} (h : ReadsWithinFrame m s) :
    decoderRun Config.hw k (withCap m s) = mapNext (withCap m) (decoderRun Config.hw k s) := by
  induction k generalizing s with
  | zero => rfl
  | succ k ih =>
    have hstep : decoderStep Config.hw (withCap m s) = mapNext (withCap m) (decoderStep Config.hw s) :=
      (decoderBlind_withCap Config.hw m).decoderStep fun i hi =>
        capRead_withCap h.overwritten (h.agree i (h.nextCapRead_le hi))
    simp only [decoderRun, hstep]
    cases hs : decoderStep Config.hw s with
    | next t => exact ih (h.of_effect (decoderStep_effect hs))
    | fault r => rfl
    | refused r => rfl

end Sys2Proof.Machine

namespace Sys2Proof

open Machine

/-- Settles O12: an ENC word is held while the encoder stays busy, which only its own turn or a reset can end; a DEC
word likewise behind the decoder. -/
theorem heldWordDelaysAllBehindIt : Obligations.HeldWordDelaysAllBehindIt := by
  unfold Obligations.HeldWordDelaysAllBehindIt
  intro s t ts w ws hw hreset hrun
  refine ⟨fun a b hbusy hd henc => ?encTw, fun a v hbusy hd henc => ?encRaw, fun n hbusy hd hdec => ?dec⟩
  case encTw =>
    exact runTurns_holds_encode_word hd (fun s hs => by rw [exec_encTw, encodeCommand_of_busy hs]) hbusy hw hreset henc
      hrun
  case encRaw =>
    exact runTurns_holds_encode_word hd (fun s hs => by rw [exec_encRaw, encodeCommand_of_busy hs]) hbusy hw hreset henc
      hrun
  case dec =>
    refine runTurns_holds_word (busy := fun s => s.decSt ≠ .idle) hd (fun s hs => execDec_of_busy hs n)
      (fun _ _ hb => hb) ?keep hbusy hw hrun
    intro turn hmem hpresent s u hb he
    rwa [he.keeps_decSt hpresent (fun h => hdec (h ▸ hmem)) (fun h => hreset (h ▸ hmem))]

/-- Settles O54: the frame of each unit's turn. -/
theorem unitStepsTouchOnlyTheirOwnState : Obligations.UnitStepsTouchOnlyTheirOwnState := by
  unfold Obligations.UnitStepsTouchOnlyTheirOwnState
  refine fun s t h => ⟨fun hturn => ?encoder, fun hturn => ?decoder⟩
  all_goals obtain ⟨ts, hts⟩ := List.head?_eq_some_iff.mp hturn
  case encoder =>
    rw [step_of_encoder_turn hts] at h
    cases h
    rw [hts, List.tail_cons]
    exact encoderStep_eq_withEncoder Config.hw (withTurns s ts)
  case decoder =>
    rw [step_of_decoder_turn hts] at h
    rw [(decoderStep_effect h).decoder_state, hts]
    simp

/-- Settles O55: both orders are the decoder's step after the encoder's. -/
theorem encoderAndDecoderTurnsCommute : Obligations.EncoderAndDecoderTurnsCommute := by
  unfold Obligations.EncoderAndDecoderTurnsCommute
  intro s
  rw [runTurns_encoder_cons, runTurns_decoder_cons, runTurns_decoder_cons, decoderStep_encoderStep]
  cases decoderStep Config.hw s with
  | next u => exact (runTurns_encoder_cons [] u).symm
  | fault r => rfl
  | refused r => rfl

/-- Settles O41: the two decodes go step for step, so they end alike. -/
theorem entriesAfterSlot39DoNotMatter : Obligations.EntriesAfterSlot39DoNotMatter := by
  unfold Obligations.EntriesAfterSlot39DoNotMatter
  intro s m k hst hidx hrace hagree
  have hwithin : ReadsWithinFrame m s := ⟨hrace, by simp [hst], fun _ => hidx, hagree⟩
  have hrun := decoderRun_withCap (k := k) hwithin
  refine ⟨fun t ht => ?next, fun r hr => ?fault⟩
  case next => rw [ht] at hrun; exact hrun
  case fault => rw [hr] at hrun; exact hrun

end Sys2Proof

/-! PROOF. Encodes run to completion, one after the other, and the levels and airtime of a frame (42_encoder.md
sections 4 and 5). -/

namespace Sys2Proof.Machine

/-- A row of encoder's turns at the head of a run. -/
theorem runTurns_encoders (n : Nat) (rest : List Turn) (s : State) :
    runTurns (List.replicate n .encoder ++ rest) s = runTurns rest ((encoderStep Config.hw)^[n] s) := by
  induction n generalizing s with
  | zero => rfl
  | succ n ih => rw [List.replicate_succ, List.cons_append, runTurns_encoder_cons, ih, Function.iterate_succ_apply]

/-- The encode accepted in `s` after its header and the first `k` slots (42_encoder.md R163, R164). -/
def afterSlots (s : State) (k : Nat) : State :=
  { s with
    emitted := s.emitted ++ (frameTokens Config.hw s.encFrame).take (k + 1)
    encIdx := BitVec.ofNat 6 k
    encSt := if k = 40 then .trl else .slot }

/-- The encode accepted in `s` after all its tokens (42_encoder.md R167, R169). -/
def encodeDone (s : State) : State :=
  { s with emitted := s.emitted ++ frameTokens Config.hw s.encFrame, encIdx := 40, encSt := .idle }

theorem headerStep_eq_afterSlots {s : State} (hidx : s.encIdx = 0) : headerStep Config.hw s = afterSlots s 0 := by
  rw [headerStep, afterSlots, frameTokens, List.take_succ_cons, List.take_zero]
  simp only [emit, hidx]
  rfl

theorem slotStep_afterSlots {s : State} {k : Nat} (hk : k < 40) :
    slotStep Config.hw (afterSlots s k) = afterSlots s (k + 1) := by
  have hidx : (afterSlots s k).encIdx.toNat = k := by
    rw [afterSlots, BitVec.toNat_ofNat]
    omega
  have htokens : (frameTokens Config.hw s.encFrame).take (k + 2) =
      (frameTokens Config.hw s.encFrame).take (k + 1) ++ [slotToken Config.hw s.encFrame k] := by
    rw [List.take_add_one, frameTokens_slot Config.hw s.encFrame hk]
    rfl
  have hcount : (afterSlots s k).encIdx + 1 = BitVec.ofNat 6 (k + 1) := (BitVec.ofNat_add k 1).symm
  rw [slotStep_hw, hidx, hcount]
  simp only [afterSlots, emit, htokens, List.append_assoc]

theorem trailerStep_afterSlots (s : State) : trailerStep Config.hw (afterSlots s 40) = encodeDone s := by
  have htokens : frameTokens Config.hw s.encFrame =
      (frameTokens Config.hw s.encFrame).take 41 ++ [trailerToken Config.hw] := by
    rw [← frameTokens_drop_trailer Config.hw s.encFrame, hw_frameBits, List.take_append_drop]
  rw [encodeDone, htokens, ← List.append_assoc]
  rfl

/-- The header step and the first `k` slot steps in a row. -/
theorem iterate_encoderStep_slots {s : State} (hst : s.encSt = .hdr) (hidx : s.encIdx = 0) {k : Nat} (hk : k ≤ 40) :
    (encoderStep Config.hw)^[k + 1] s = afterSlots s k := by
  induction k with
  | zero => exact (encoderStep_of_hdr hst).trans (headerStep_eq_afterSlots hidx)
  | succ k ih =>
    have hslot : (afterSlots s k).encSt = .slot := if_neg (by omega)
    rw [Function.iterate_succ_apply', ih (Nat.le_of_succ_le hk), encoderStep_of_slot hslot,
      slotStep_afterSlots (Nat.lt_of_succ_le hk)]

/-- An accepted encode given 42 turns in a row is done, whatever turns are to follow (42_encoder.md R163 to R169). -/
theorem runTurns_whole_encode {s : State} (hst : s.encSt = .hdr) (hidx : s.encIdx = 0) (rest : List Turn) :
    runTurns (List.replicate 42 .encoder ++ rest) s = runTurns rest (encodeDone s) := by
  have htrl : (afterSlots s 40).encSt = .trl := rfl
  rw [runTurns_encoders, Function.iterate_succ_apply', iterate_encoderStep_slots hst hidx (Nat.le_refl 40),
    encoderStep_of_trl htrl, trailerStep_afterSlots]

theorem encodeCommand_withTurns (f : Frame) (s : State) (ts : List Turn) :
    encodeCommand f (withTurns s ts) = withTurns (encodeCommand f s) ts := by
  by_cases hi : s.encSt = .idle
  · rw [encodeCommand_of_idle hi, encodeCommand_of_idle (s := withTurns s ts) hi]
    rfl
  · rw [encodeCommand_of_busy hi, encodeCommand_of_busy (s := withTurns s ts) hi]

/-- A run that begins by presenting the word of an ENC.RAW, accepted or held. -/
theorem runTurns_present_encRaw {s : State} {a : BitVec 8} {v : BitVec 32} {ws : List CmdWord} (ts : List Turn)
    (hw : s.hostWords = encode (.encRaw a v) :: ws) :
    runTurns (.present :: ts) s = runTurns ts (encodeCommand (frameRaw a v) s) := by
  rw [runTurns_cons, takeTurn, present_of_instr (s := withTurns s ts) hw (decode_encode _), exec_encRaw,
    encodeCommand_withTurns]
  rfl

/-- The state in which an ENC.RAW accepted in `s` leaves the encoder after 42 of its turns. -/
def encodedRaw (s : State) (a : BitVec 8) (v : BitVec 32) : State :=
  encodeDone (startEncode (acceptWord s) (frameRaw a v))

/-- An ENC.RAW accepted, and 42 encoder's turns. -/
theorem runTurns_encRaw {s : State} {a : BitVec 8} {v : BitVec 32} {ws : List CmdWord} (rest : List Turn)
    (hidle : s.encSt = .idle) (hw : s.hostWords = encode (.encRaw a v) :: ws) :
    runTurns (.present :: (List.replicate 42 .encoder ++ rest)) s = runTurns rest (encodedRaw s a v) := by
  rw [runTurns_present_encRaw _ hw, encodeCommand_of_idle hidle, runTurns_whole_encode rfl rfl]
  rfl

/-- The same with a second ENC.RAW presented meanwhile: it is held (40_port.md R121). -/
theorem runTurns_encRaw_while_held {s : State} {a b : BitVec 8} {v x : BitVec 32} {ws : List CmdWord}
    (rest : List Turn) (hidle : s.encSt = .idle)
    (hw : s.hostWords = encode (.encRaw a v) :: encode (.encRaw b x) :: ws) :
    runTurns (.present :: .present :: (List.replicate 42 .encoder ++ rest)) s = runTurns rest (encodedRaw s a v) := by
  have hnext : (startEncode (acceptWord s) (frameRaw a v)).hostWords = encode (.encRaw b x) :: ws :=
    congrArg List.tail hw
  have hbusy : (startEncode (acceptWord s) (frameRaw a v)).encSt ≠ .idle := nofun
  rw [runTurns_present_encRaw _ hw, encodeCommand_of_idle hidle, runTurns_present_encRaw _ hnext,
    encodeCommand_of_busy hbusy, runTurns_whole_encode rfl rfl]
  rfl

theorem Level.eq_off_iff (l : Level) : l = .off ↔ ¬ l = .on := by
  cases l <;> simp

theorem frameTokens_trailer (c : Config) (f : Frame) : (frameTokens c f)[c.frameBits + 1]? = some (trailerToken c) := by
  rw [← List.head?_drop, frameTokens_drop_trailer]
  rfl

/-- The level of each token of a frame (42_encoder.md R165, R170). -/
theorem frameTokens_level {f : Frame} {k : Nat} {p : PulseSegment} (h : (frameTokens Config.hw f)[k]? = some p) :
    p.level = .on ↔ k % 2 = 0 := by
  have hk : k < 42 := by
    have hlt := (List.getElem?_eq_some_iff.mp h).1
    rwa [length_frameTokens, hw_frameBits] at hlt
  match k with
  | 0 => cases h; exact iff_of_true rfl rfl
  | i + 1 =>
    by_cases hi : i < 40
    · rw [frameTokens_slot Config.hw f hi] at h
      cases h
      have hlevel : (slotToken Config.hw f i).level = if i % 2 = 0 then .off else .on := rfl
      rw [hlevel]
      split
      · exact iff_of_false nofun (by omega)
      · exact iff_of_true rfl (by omega)
    · obtain rfl : i = 40 := by omega
      cases (frameTokens_trailer Config.hw f).symm.trans h
      exact iff_of_false nofun (by decide)

/-- A sum of two values chosen by a test is their multiples by how often each is chosen. -/
theorem sum_map_ite (b : Nat → Bool) (x y : Nat) (l : List Nat) :
    (l.map fun i => if b i then x else y).sum = y * l.countP (fun i => !b i) + x * l.countP b := by
  induction l with
  | nil => rfl
  | cons i l ih =>
    rw [List.map_cons, List.sum_cons, ih, List.countP_cons, List.countP_cons]
    cases b i <;> simp <;> ring

end Sys2Proof.Machine

namespace Sys2Proof

open Machine

/-- Settles O27: the header, the 40 slots and the trailer in a row, with nothing to follow. -/
theorem encodeRunsToCompletion : Obligations.EncodeRunsToCompletion := by
  unfold Obligations.EncodeRunsToCompletion
  intro s hst hidx
  have hrun := runTurns_whole_encode hst hidx []
  rw [List.append_nil] at hrun
  exact hrun

/-- Settles O28: the length of a frame's tokens and the level of each. -/
theorem encodedLevelsAlternate : Obligations.EncodedLevelsAlternate := by
  unfold Obligations.EncodedLevelsAlternate
  refine fun f => ⟨length_frameTokens Config.hw f, fun k p => frameTokens_level, fun i hi => ?slot⟩
  case slot =>
    have htoken := frameTokens_slot Config.hw f hi
    refine ⟨_, htoken, ?level⟩
    rw [Level.eq_off_iff, frameTokens_level htoken]
    omega

/-- Settles O29: the second word is held while the first encode runs, and accepted by the encoder it leaves IDLE. -/
theorem backToBackEncodesDoNotInterleave : Obligations.BackToBackEncodesDoNotInterleave := by
  unfold Obligations.BackToBackEncodesDoNotInterleave
  intro s a b v x ws hidle hwords
  have hthen : (encodedRaw s a v).hostWords = encode (.encRaw b x) :: ws := congrArg List.tail hwords
  refine ⟨withTurns (encodedRaw (encodedRaw s a v) b x) [], ?run, ?tokens, ?words, rfl⟩
  case run =>
    calc runTurns ([.present, .present] ++ List.replicate 42 .encoder ++ [.present] ++ List.replicate 42 .encoder) s
      _ = runTurns (.present :: .present :: (List.replicate 42 .encoder ++
            .present :: (List.replicate 42 .encoder ++ []))) s := by simp
      _ = runTurns (.present :: (List.replicate 42 .encoder ++ [])) (encodedRaw s a v) :=
        runTurns_encRaw_while_held _ hidle hwords
      _ = runTurns [] (encodedRaw (encodedRaw s a v) b x) := runTurns_encRaw _ rfl hthen
  case tokens => rfl
  case words => exact congrArg List.tail hthen

/-- Settles O30: the slots are the frame's bits, most significant first, so they count what the frame counts. -/
theorem frameAirtime : Obligations.FrameAirtime := by
  unfold Obligations.FrameAirtime
  intro f
  have hslots : ((List.range 40).map fun i => if f.getLsbD (39 - i) then 800 else 400).sum =
      400 * (List.range 40).countP (fun i => !f.getLsbD i) + 800 * (List.range 40).countP (fun i => f.getLsbD i) := by
    have hreverse : (List.range 40).map (fun i => 39 - i) = (List.range 40).reverse := by decide
    have hmap : (List.range 40).map (fun i => if f.getLsbD (39 - i) then 800 else 400) =
        (List.range 40).reverse.map (fun i => if f.getLsbD i then 800 else 400) := by
      rw [← hreverse, List.map_map]
      rfl
    rw [hmap, sum_map_ite, List.countP_reverse, List.countP_reverse]
  have hdurs : (frameTokens Config.hw f).map (fun p => p.dur) =
      1600 :: ((List.range 40).map (fun i => if f.getLsbD (39 - i) then 800 else 400) ++ [1000]) := by
    rw [frameTokens_hw, List.map_cons, List.map_append, List.map_map]
    rfl
  rw [hdurs, List.sum_cons, List.sum_append, hslots, List.sum_singleton]
  ring

end Sys2Proof

/-! PROOF. The decode of a captured frame under every interleaving (43_decoder.md sections 3 and 5). -/

namespace Sys2Proof.Machine

/-- The decoder before the header of a captured frame. -/
structure AwaitingFrame (c : Config) (f : Frame) (s : State) : Prop where
  decSt : s.decSt = .awaitHeader
  decIdx : s.decIdx = 0
  decAcc : s.decAcc = 0
  decLen : 41 ≤ s.decLen.toNat
  overwritten : s.overwritten = []
  cap : ∀ i ≤ 40, capGet s.cap i = (frameTokens c f)[i]?

/-- The header step of a captured frame's decode (43_decoder.md R204). -/
theorem AwaitingFrame.takes_header {c : Config} {f : Frame} {s : State} (hc : c.legal = true)
    (hn : c.bandsHoldNominal = true) (h : AwaitingFrame c f s) :
    ∃ t, decoderStep c s = .next t ∧ DecodingFrame c f 0 t := by
  obtain ⟨hst, hidx, hacc, hlen, hrace, hcap⟩ := h
  have hpresent : s.decLen ≠ 0 := fun h => absurd (h ▸ hlen) (by decide)
  have hheader : capGet s.cap 0 = some (headerToken c) := hcap 0 (Nat.zero_le 40)
  refine ⟨{ s with decSt := .readBits }, ?step, rfl, by simp [hidx], ?acc, hlen, hrace, hcap⟩
  case step =>
    rw [decoderStep_of_awaitHeader hc hst, awaitHeaderStep_of_capRead hpresent (capRead_of_noRace hrace hheader),
      if_pos (hdrOk_headerToken hc hn)]
  case acc => exact hacc.trans (BitVec.ushiftRight_eq_zero (Nat.le_refl 40)).symm

/-- The decode of a captured frame after `n` of its decoder's turns: the header, then the slots. -/
def CapturedDecode (c : Config) (f : Frame) : Nat → State → Prop
  | 0, s => AwaitingFrame c f s
  | k + 1, s => DecodingFrame c f k s

theorem CapturedDecode.takes_turn {c : Config} {f : Frame} {n : Nat} {s : State} (hc : c.legal = true)
    (hn : c.bandsHoldNominal = true) (h : CapturedDecode c f n s) (hlt : n < 41) :
    ∃ t, decoderStep c s = .next t ∧ CapturedDecode c f (n + 1) t := by
  cases n with
  | zero => exact AwaitingFrame.takes_header hc hn h
  | succ k => exact DecodingFrame.takes_slot hc hn h (Nat.lt_of_succ_lt_succ hlt)

theorem CapturedDecode.busy {c : Config} {f : Frame} {n : Nat} {s : State} (h : CapturedDecode c f n s) :
    s.decSt ≠ .idle := by
  cases n with
  | zero => rw [AwaitingFrame.decSt h]; exact nofun
  | succ k => rw [DecodingFrame.decSt h]; split <;> exact nofun

/-- Two states with the same decode: what the decoder's steps to come depend on, but for the free values of a race. -/
structure SameDecode (s u : State) : Prop where
  decSt : u.decSt = s.decSt
  decIdx : u.decIdx = s.decIdx
  decAcc : u.decAcc = s.decAcc
  decLen : u.decLen = s.decLen
  overwritten : u.overwritten = s.overwritten
  cap : u.cap = s.cap

theorem SameDecode.of_withTurns {s u : State} {ts : List Turn} (h : SameDecode (withTurns s ts) u) : SameDecode s u :=
  ⟨h.decSt, h.decIdx, h.decAcc, h.decLen, h.overwritten, h.cap⟩

theorem CapturedDecode.of_same {c : Config} {f : Frame} {n : Nat} {s u : State} (h : CapturedDecode c f n s)
    (hsame : SameDecode s u) : CapturedDecode c f n u := by
  obtain ⟨hst, hidx, hacc, hlen, hrace, hcap⟩ := hsame
  cases n with
  | zero =>
    obtain ⟨h₁, h₂, h₃, h₄, h₅, h₆⟩ := h
    exact ⟨hst.trans h₁, hidx.trans h₂, hacc.trans h₃, hlen ▸ h₄, hrace.trans h₅, hcap ▸ h₆⟩
  | succ k =>
    obtain ⟨h₁, h₂, h₃, h₄, h₅, h₆⟩ := h
    exact ⟨hst.trans h₁, hidx ▸ h₂, hacc.trans h₃, hlen ▸ h₄, hrace.trans h₅, hcap ▸ h₆⟩

/-- A running decode is left alone by every turn but the decoder's, a capture write and reset: a DEC word is held. -/
theorem TurnEffect.sameDecode {s u : State} {t : Turn} (he : TurnEffect s t u) (hbusy : s.decSt ≠ .idle)
    (hdec : t ≠ .decoder) (hreset : t ≠ .reset) (hcap : ∀ i l d, t ≠ .capWrite i l d) : SameDecode s u := by
  cases he with
  | startsDecode n hi => exact absurd hi hbusy
  | decoderIdle | failsHeader | findsHeader | failsSlot | takesBit | finishes => exact absurd rfl hdec
  | writesCapture i l d => exact absurd rfl (hcap i l d)
  | resets => exact absurd rfl hreset
  | _ => exact ⟨rfl, rfl, rfl, rfl, rfl, rfl⟩

/-- Under every interleaving without capture writes and reset, the last of a captured frame's 42 decoder's turns is the
DONE step on that frame. -/
theorem CapturedDecode.runTurns_finishes {f : Frame} {n : Nat} {ts : List Turn} {s : State}
    (h : CapturedDecode Config.hw f n s) (hreset : .reset ∉ ts) (hcap : ∀ i l d, .capWrite i l d ∉ ts)
    (hcount : n + ts.count .decoder = 41) :
    ∃ u, runTurns (ts ++ [.decoder]) s = .next (withTurns (finishDecode Config.hw u) []) ∧ u.decAcc = f := by
  induction ts generalizing n s with
  | nil =>
    obtain rfl : n = 41 := hcount
    have hdone : s.decSt = .done := DecodingFrame.decSt h
    refine ⟨s, ?step, DecodingFrame.decAcc_of_all h⟩
    rw [List.nil_append, runTurns_decoder_cons, decoderStep_of_done hw_legal hdone]
    rfl
  | cons t ts ih =>
    have hreset' : .reset ∉ ts := fun hmem => hreset (List.mem_cons_of_mem t hmem)
    have hcap' : ∀ i l d, .capWrite i l d ∉ ts := fun i l d hmem => hcap i l d (List.mem_cons_of_mem t hmem)
    rw [List.cons_append]
    by_cases ht : t = .decoder
    · subst ht
      rw [List.count_cons_self] at hcount
      obtain ⟨v, hstep, hv⟩ := h.takes_turn hw_legal rfl (by omega)
      rw [runTurns_decoder_cons, hstep]
      exact ih hv hreset' hcap' (by omega)
    · rw [List.count_cons_of_ne ht] at hcount
      obtain ⟨v, hturn⟩ := takeTurn_answers_next ht (withTurns s (ts ++ [.decoder]))
      have hsame := (takeTurn_effect hturn).sameDecode h.busy ht (fun he => hreset (he ▸ List.mem_cons_self))
        (fun i l d he => hcap i l d (he ▸ List.mem_cons_self))
      rw [runTurns_cons, hturn]
      exact ih (h.of_same hsame.of_withTurns) hreset' hcap' hcount

/-- DEC 42 of a captured frame (43_decoder.md R200). -/
theorem awaitingFrame_startDecode {c : Config} {f : Frame} {s : State} (hc : c.legal = true)
    (hcap : ∀ i ≤ 40, capGet s.cap i = (frameTokens c f)[i]?) : AwaitingFrame c f (startDecode c s 42) :=
  ⟨rfl, rfl, rfl, le_effectiveLen_42 hc, rfl, hcap⟩

end Sys2Proof.Machine

namespace Sys2Proof

open Machine

/-- Settles O37: DEC 42 starts the decode of the captured frame, which the decoder's turns end with the DONE step. -/
theorem decodeRecoversAnyFrame : Obligations.DecodeRecoversAnyFrame := by
  unfold Obligations.DecodeRecoversAnyFrame
  intro s f ts ws hidle hwords hcap hreset hwrite hcount
  have hstart : takeTurn .present (withTurns s (ts ++ [.decoder])) =
      .next (startDecode Config.hw (acceptWord (withTurns s (ts ++ [.decoder]))) 42) := by
    have hwords' : (withTurns s (ts ++ [.decoder])).hostWords = encode (.dec 42) :: ws := hwords
    rw [takeTurn, present_of_instr hwords' (decode_encode _), exec_dec, execDec_of_idle (by simpa using hidle)]
  have hdecode : CapturedDecode Config.hw f 0
      (startDecode Config.hw (acceptWord (withTurns s (ts ++ [.decoder]))) 42) :=
    awaitingFrame_startDecode hw_legal fun i hi => hcap i (by omega)
  obtain ⟨u, hrun, hacc⟩ := hdecode.runTurns_finishes hreset hwrite (by omega)
  refine ⟨withTurns (finishDecode Config.hw u) [], ?run, rfl, rfl, rfl, rfl, ?addr, ?value, rfl, rfl, rfl, ?ckmm⟩
  case run =>
    rw [List.cons_append, runTurns_cons, hstart]
    exact hrun
  case addr => rw [withTurns_decAddr, finishDecode_decAddr, hacc]; rfl
  case value => rw [withTurns_decValue, finishDecode_decValue, hacc]; rfl
  case ckmm => rw [withTurns_ckmm, finishDecode_ckmm, hacc]

end Sys2Proof

/-! PROOF. A decode ends, and the entries it reads on the way (43_decoder.md section 5, 70_reset_and_hazards.md section
2). -/

namespace Sys2Proof.Machine

/-- How many of its turns the decoder takes at most before it is IDLE (43_decoder.md R213). -/
def decoderStepsLeft (s : State) : Nat :=
  match s.decSt with
  | .idle => 0
  | .awaitHeader => 42
  | .readBits => 41 - s.decIdx.toNat
  | .done => 1

theorem decoderStepsLeft_of_idle {s : State} (h : s.decSt = .idle) : decoderStepsLeft s = 0 := by
  simp [decoderStepsLeft, h]

theorem decoderStepsLeft_of_awaitHeader {s : State} (h : s.decSt = .awaitHeader) : decoderStepsLeft s = 42 := by
  simp [decoderStepsLeft, h]

theorem decoderStepsLeft_of_readBits {s : State} (h : s.decSt = .readBits) :
    decoderStepsLeft s = 41 - s.decIdx.toNat := by
  simp [decoderStepsLeft, h]

theorem decoderStepsLeft_of_done {s : State} (h : s.decSt = .done) : decoderStepsLeft s = 1 := by
  simp [decoderStepsLeft, h]

/-- A decode of written entries on its way, or ended with its results complete (43_decoder.md R208, R215). -/
structure DecodeProgress (s : State) : Prop where
  ready : captureReady s
  header : s.decSt = .awaitHeader → s.decIdx = 0
  slot : s.decSt = .readBits → s.decIdx.toNat < 40
  ended : s.decSt = .idle → s.decDone = true ∧ (s.decOk = true → s.decBits = 40)

/-- A decode whose entries have been written does not fault (20_memory.md R65). -/
theorem DecodeProgress.answers_next {s : State} (h : DecodeProgress s) : ∃ t, decoderStep Config.hw s = .next t := by
  rcases decoderStep_stops hw_legal s with hnext | ⟨i, -, -, hlt, hnone⟩
  · exact hnext
  · exact absurd (capRead_eq_none_iff.mp hnone).2 (h.ready i hlt)

/-- Each turn of a busy decoder brings its decode nearer to the end. -/
theorem DecodeProgress.after_turn {s u : State} (h : DecodeProgress s) (hbusy : s.decSt ≠ .idle)
    (he : TurnEffect s .decoder u) : DecodeProgress u ∧ decoderStepsLeft u < decoderStepsLeft s := by
  obtain ⟨hready, hheader, hslot, -⟩ := h
  cases he with
  | decoderIdle hst => exact absurd hst hbusy
  | failsHeader n hst =>
    rw [decoderStepsLeft_of_awaitHeader hst, decoderStepsLeft_of_idle rfl]
    exact ⟨⟨hready, nofun, nofun, fun _ => ⟨rfl, nofun⟩⟩, by decide⟩
  | findsHeader n hst =>
    have hidx : s.decIdx.toNat < 40 := by simp [hheader hst]
    rw [decoderStepsLeft_of_awaitHeader hst, decoderStepsLeft_of_readBits rfl]
    exact ⟨⟨hready, nofun, fun _ => hidx, nofun⟩, by omega⟩
  | failsSlot n code hst hcode =>
    have hidx := hslot hst
    rw [decoderStepsLeft_of_readBits hst, decoderStepsLeft_of_idle rfl]
    exact ⟨⟨hready, nofun, nofun, fun _ => ⟨rfl, nofun⟩⟩, by omega⟩
  | takesBit n b hst =>
    have hslot' : (withFreeCount s n).decIdx.toNat < 40 := hslot hst
    have hless : s.decIdx.toNat < 40 := hslot hst
    rw [decoderStepsLeft_of_readBits hst]
    rcases takeBit_cases hslot' b with ⟨hidx, ⟨-, hnext⟩ | ⟨hlt, hnext⟩⟩
    · rw [decoderStepsLeft_of_done hnext]
      exact ⟨⟨hready, by simp [hnext], by simp [hnext], by simp [hnext]⟩, by omega⟩
    · rw [decoderStepsLeft_of_readBits hnext, hidx]
      refine ⟨⟨hready, by simp [hnext], fun _ => hlt, by simp [hnext]⟩, ?nearer⟩
      case nearer => exact Nat.sub_lt_sub_left (Nat.lt_succ_of_lt hless) (Nat.lt_succ_self s.decIdx.toNat)
  | finishes hst =>
    rw [decoderStepsLeft_of_done hst, decoderStepsLeft_of_idle rfl]
    exact ⟨⟨hready, nofun, nofun, fun _ => ⟨rfl, fun _ => rfl⟩⟩, by decide⟩

theorem decoderRun_of_idle {c : Config} (hc : c.legal = true) {s : State} (h : s.decSt = .idle) (k : Nat) :
    decoderRun c k s = .next s := by
  induction k with
  | zero => rfl
  | succ k ih => rw [decoderRun_of_next (decoderStep_of_idle hc h), ih]

/-- One decoder's step more after a run. -/
theorem decoderRun_then_step {c : Config} {k : Nat} {s v t : State} (hrun : decoderRun c k s = .next v)
    (hstep : decoderStep c v = .next t) : decoderRun c (k + 1) s = .next t := by
  induction k generalizing s with
  | zero => cases hrun; exact decoderRun_of_next hstep
  | succ k ih =>
    rw [decoderRun] at hrun ⊢
    cases hs : decoderStep c s with
    | next u => rw [hs] at hrun; exact ih hrun
    | fault r => simp [hs] at hrun
    | refused r => simp [hs] at hrun

/-- `k` decoder's steps of a decode of written entries: no fault, and `k` steps fewer left. -/
theorem DecodeProgress.decoderRun {s : State} (h : DecodeProgress s) (k : Nat) :
    ∃ t, decoderRun Config.hw k s = .next t ∧ DecodeProgress t ∧ decoderStepsLeft t ≤ decoderStepsLeft s - k := by
  induction k generalizing s with
  | zero => exact ⟨s, rfl, h, Nat.le_refl _⟩
  | succ k ih =>
    by_cases hidle : s.decSt = .idle
    · exact ⟨s, decoderRun_of_idle hw_legal hidle _, h, by rw [decoderStepsLeft_of_idle hidle]; exact Nat.zero_le _⟩
    · obtain ⟨u, hstep⟩ := h.answers_next
      obtain ⟨hu, hless⟩ := h.after_turn hidle (decoderStep_effect hstep)
      obtain ⟨t, hrun, ht, hleft⟩ := ih hu
      exact ⟨t, (decoderRun_of_next hstep).trans hrun, ht, by omega⟩

/-- With one step left at most, a decode has ended or is at its DONE step. -/
theorem DecodeProgress.idle_or_done {s : State} (h : DecodeProgress s) (hleft : decoderStepsLeft s ≤ 1) :
    s.decSt = .idle ∨ s.decSt = .done := by
  cases hst : s.decSt with
  | idle => exact .inl rfl
  | awaitHeader => rw [decoderStepsLeft_of_awaitHeader hst] at hleft; omega
  | readBits =>
    have hlt := h.slot hst
    rw [decoderStepsLeft_of_readBits hst] at hleft
    omega
  | done => exact .inr rfl

/-- How many entries, from 0 on, a decode of length `len` that ended in `u` has read (43_decoder.md R214). -/
def entriesRead (len : BitVec 16) (u : State) : Nat :=
  match u.decErr with
  | .none => 41
  | .malformedHeader => if len = 0 then 0 else 1
  | .truncatedFrame =>
    if len.toNat ≤ u.decSlots.toNat + 1 then u.decSlots.toNat + 1 else u.decSlots.toNat + 2
  | .ambiguousTiming => u.decSlots.toNat + 2

theorem capReadsOf_of_next {c : Config} {s t : State} (h : decoderStep c s = .next t) (k : Nat) :
    capReadsOf c (k + 1) s = (nextCapRead s).toList ++ capReadsOf c k t := by
  rw [capReadsOf, h]

theorem capReadsOf_of_idle {c : Config} (hc : c.legal = true) {s : State} (h : s.decSt = .idle) (k : Nat) :
    capReadsOf c k s = [] := by
  have hread : nextCapRead s = none := by simp [nextCapRead, h]
  induction k with
  | zero => rfl
  | succ k ih => rw [capReadsOf_of_next (decoderStep_of_idle hc h), hread, ih]; rfl

/-- A run that answers a next state: its first step does, and so does the rest. -/
theorem decoderRun_succ_next {c : Config} {k : Nat} {s u : State} (h : decoderRun c (k + 1) s = .next u) :
    ∃ t, decoderStep c s = .next t ∧ decoderRun c k t = .next u := by
  rw [decoderRun] at h
  cases hs : decoderStep c s with
  | next t => exact ⟨t, rfl, by simpa [hs] using h⟩
  | fault r => simp [hs] at h
  | refused r => simp [hs] at h

/-- Everything a READ_BITS step can do, with what it reads (43_decoder.md R205). -/
theorem readBitsStep_reads {s t : State} (hst : s.decSt = .readBits) (h : decoderStep Config.hw s = .next t) :
    (s.decLen.toNat ≤ s.decIdx.toNat + 1 ∧ nextCapRead s = none ∧ t = failDecode s .truncatedFrame) ∨
    (s.decIdx.toNat + 1 < s.decLen.toNat ∧ nextCapRead s = some (s.decIdx.toNat + 1) ∧ ∃ n,
      t = failDecode (withFreeCount s n) .truncatedFrame ∨ t = failDecode (withFreeCount s n) .ambiguousTiming ∨
      ∃ b, t = takeBit Config.hw (withFreeCount s n) b) := by
  rw [decoderStep_of_readBits hw_legal hst] at h
  rcases readBitsStep_cases h with ⟨hlen, rfl⟩ | ⟨hlen, p, v, hread, rfl⟩
  · exact .inl ⟨hlen, by simp [nextCapRead, hst, hlen], rfl⟩
  · refine .inr ⟨hlen, nextCapRead_of_slot hst hlen, v.freeCount, ?_⟩
    rw [capRead_withFreeCount hread]
    rcases takeSlot_cases Config.hw p (withFreeCount s v.freeCount) with e | e | ⟨b, -, -, e⟩
    · exact .inl e
    · exact .inr (.inl e)
    · exact .inr (.inr ⟨b, e⟩)

/-- What a decode's steps from slot `i` on read, up to the state `u` in which it ends: the entries after i, in order,
each once. -/
structure ReadsFrom (i : Nat) (len : BitVec 16) (reads : List Nat) (u : State) : Prop where
  before : i + 1 ≤ entriesRead len u
  reads : reads = List.range' (i + 1) (entriesRead len u - (i + 1))
  success : u.decOk = true → u.decErr = .none

theorem ReadsFrom.nothing {i : Nat} {len : BitVec 16} {u : State} (hcount : entriesRead len u = i + 1)
    (hok : u.decOk = true → u.decErr = .none) : ReadsFrom i len [] u :=
  ⟨hcount.ge, by rw [hcount, Nat.sub_self]; rfl, hok⟩

theorem ReadsFrom.next {i : Nat} {len : BitVec 16} {reads : List Nat} {u : State}
    (h : ReadsFrom (i + 1) len reads u) : ReadsFrom i len ((i + 1) :: reads) u := by
  obtain ⟨hbefore, hreads, hsuccess⟩ := h
  have hsplit : entriesRead len u - (i + 1) = entriesRead len u - (i + 1 + 1) + 1 := by omega
  exact ⟨Nat.le_of_succ_le hbefore, by rw [hreads, hsplit, List.range'_succ], hsuccess⟩

/-- What is left to read once the decode has ended: nothing. -/
theorem ReadsFrom.ended {i k : Nat} {len : BitVec 16} {t u : State} (hst : t.decSt = .idle)
    (hcount : entriesRead len t = i + 1) (hok : t.decOk = true → t.decErr = .none)
    (hrun : decoderRun Config.hw k t = .next u) : ReadsFrom i len (capReadsOf Config.hw k t) u := by
  rw [decoderRun_of_idle hw_legal hst] at hrun
  cases hrun
  rw [capReadsOf_of_idle hw_legal hst]
  exact .nothing hcount hok

/-- From slot i on a decode reads the entries after i, up to where it ends (43_decoder.md R214). -/
theorem readsFrom_of_slot {k : Nat} {s u : State}
    (hst : s.decSt = if s.decIdx.toNat = 40 then .done else .readBits) (hidx : s.decIdx.toNat ≤ 40)
    (hk : 41 ≤ s.decIdx.toNat + k) (hrun : decoderRun Config.hw k s = .next u) :
    ReadsFrom s.decIdx.toNat s.decLen (capReadsOf Config.hw k s) u := by
  induction k generalizing s with
  | zero => omega
  | succ k ih =>
    obtain ⟨t, hstep, hrest⟩ := decoderRun_succ_next hrun
    rw [capReadsOf_of_next hstep]
    by_cases hlast : s.decIdx.toNat = 40
    · rw [if_pos hlast] at hst
      rw [decoderStep_of_done hw_legal hst] at hstep
      cases hstep
      have hread : nextCapRead s = none := by simp [nextCapRead, hst]
      rw [hread, hlast]
      exact .ended rfl rfl (fun _ => rfl) hrest
    · rw [if_neg hlast] at hst
      rcases readBitsStep_reads hst hstep with ⟨hlen, hread, rfl⟩ | ⟨hlen, hread, n, rfl | rfl | ⟨b, rfl⟩⟩
      · rw [hread]
        exact .ended rfl (if_pos hlen) nofun hrest
      · rw [hread]
        exact .next (.ended rfl (if_neg (Nat.not_le.mpr hlen)) nofun hrest)
      · rw [hread]
        exact .next (.ended rfl rfl nofun hrest)
      · have hlt : s.decIdx.toNat < 40 := by omega
        have hnext : (takeBit Config.hw (withFreeCount s n) b).decIdx.toNat = s.decIdx.toNat + 1 :=
          (takeBit_cases (s := withFreeCount s n) hlt b).1
        have hrec := ih (s := takeBit Config.hw (withFreeCount s n) b) (by rw [hnext]; rfl) (by omega) (by omega) hrest
        rw [hnext] at hrec
        rw [hread]
        exact .next hrec

/-- Everything an AWAIT_HEADER step can do, with what it reads (43_decoder.md R204). -/
theorem awaitHeaderStep_reads {s t : State} (hst : s.decSt = .awaitHeader) (h : decoderStep Config.hw s = .next t) :
    (s.decLen = 0 ∧ nextCapRead s = none ∧ t = failDecode s .malformedHeader) ∨
    (s.decLen ≠ 0 ∧ nextCapRead s = some 0 ∧ ∃ n,
      t = failDecode (withFreeCount s n) .malformedHeader ∨ t = { withFreeCount s n with decSt := .readBits }) := by
  rw [decoderStep_of_awaitHeader hw_legal hst] at h
  rcases awaitHeaderStep_cases h with ⟨hlen, rfl⟩ | ⟨hlen, p, v, hread, hcases⟩
  · exact .inl ⟨hlen, by simp [nextCapRead, hst, hlen], rfl⟩
  · refine .inr ⟨hlen, nextCapRead_of_header hst hlen, v.freeCount, ?_⟩
    rw [← capRead_withFreeCount hread]
    rcases hcases with ⟨-, rfl⟩ | ⟨-, rfl⟩
    · exact .inr rfl
    · exact .inl rfl

/-- A decode reads the entries from 0 on, in order, each once (43_decoder.md R214). -/
theorem capReadsOf_decode {s u : State} (hst : s.decSt = .awaitHeader) (hidx : s.decIdx = 0)
    (hrun : decoderRun Config.hw 42 s = .next u) :
    capReadsOf Config.hw 42 s = List.range (entriesRead s.decLen u) ∧ (u.decOk = true → u.decErr = .none) := by
  obtain ⟨t, hstep, hrest⟩ := decoderRun_succ_next hrun
  rw [capReadsOf_of_next hstep]
  rcases awaitHeaderStep_reads hst hstep with ⟨hlen, hread, rfl⟩ | ⟨hlen, hread, n, rfl | rfl⟩
  · rw [decoderRun_of_idle hw_legal rfl] at hrest
    cases hrest
    have hcount : entriesRead s.decLen (failDecode s .malformedHeader) = 0 := if_pos hlen
    rw [hread, capReadsOf_of_idle hw_legal rfl, hcount]
    exact ⟨rfl, nofun⟩
  · rw [decoderRun_of_idle hw_legal rfl] at hrest
    cases hrest
    have hcount : entriesRead s.decLen (failDecode (withFreeCount s n) .malformedHeader) = 1 := if_neg hlen
    rw [hread, capReadsOf_of_idle hw_legal rfl, hcount]
    exact ⟨rfl, nofun⟩
  · have hzero : s.decIdx.toNat = 0 := by rw [hidx]; rfl
    have hfrom := readsFrom_of_slot (s := { withFreeCount s n with decSt := .readBits })
      (by simp [withFreeCount, hzero]) (by simp [withFreeCount, hzero]) (by omega) hrest
    obtain ⟨hbefore, hreads, hsuccess⟩ := hfrom
    refine ⟨?_, hsuccess⟩
    simp only [withFreeCount, hzero] at hbefore hreads
    calc (nextCapRead s).toList ++ capReadsOf Config.hw 41 { withFreeCount s n with decSt := .readBits }
      _ = 0 :: List.range' 1 (entriesRead s.decLen u - 1) := by rw [hread]; exact congrArg (0 :: ·) hreads
      _ = List.range' 0 (entriesRead s.decLen u - 1 + 1) := by rw [List.range'_succ]
      _ = List.range (entriesRead s.decLen u) := by rw [Nat.sub_add_cancel hbefore, List.range_eq_range']

end Sys2Proof.Machine

namespace Sys2Proof

open Machine

/-- Settles O39: 41 of the 42 steps leave the decode ended or at its DONE step, and only a success takes that one. -/
theorem decodeTerminates : Obligations.DecodeTerminates := by
  unfold Obligations.DecodeTerminates
  intro s hst hidx hready
  have hprogress : DecodeProgress s := ⟨hready, fun _ => hidx, by simp [hst], by simp [hst]⟩
  obtain ⟨v, hrun, hv, hleft⟩ := hprogress.decoderRun 41
  rw [decoderStepsLeft_of_awaitHeader hst] at hleft
  rcases hv.idle_or_done hleft with hidle | hdone
  · obtain ⟨hended, hbits⟩ := hv.ended hidle
    exact ⟨v, decoderRun_then_step hrun (decoderStep_of_idle hw_legal hidle), hidle, hended, hbits, fun _ => hrun⟩
  · exact ⟨finishDecode Config.hw v, decoderRun_then_step hrun (decoderStep_of_done hw_legal hdone), rfl, rfl,
      fun _ => rfl, nofun⟩

/-- Settles O40: the one list of entries from 0 on, as long as the outcome says. -/
theorem decodeReadsEntriesInOrderOnce : Obligations.DecodeReadsEntriesInOrderOnce := by
  unfold Obligations.DecodeReadsEntriesInOrderOnce
  intro s u hst hidx hrun
  obtain ⟨hreads, hsuccess⟩ := capReadsOf_decode hst hidx hrun
  rw [hreads]
  refine ⟨fun hok => ?success, fun herr => ?malformed, fun herr => ?truncated, fun herr => ?ambiguous⟩
  case success => rw [entriesRead, hsuccess hok]
  case malformed =>
    have hcount : entriesRead s.decLen u = if s.decLen = 0 then 0 else 1 := by rw [entriesRead, herr]
    rw [hcount]
    split <;> rfl
  case truncated =>
    have hcount : entriesRead s.decLen u =
        if s.decLen.toNat ≤ u.decSlots.toNat + 1 then u.decSlots.toNat + 1 else u.decSlots.toNat + 2 := by
      rw [entriesRead, herr]
    rw [hcount]
    split <;> rfl
  case ambiguous => rw [entriesRead, herr]

end Sys2Proof

/-! PROOF. The race on the capture buffer (20_memory.md R64, R80). -/

namespace Sys2Proof.Machine

theorem capWrite_decSt (c : Config) (s : State) (j : BitVec 16) (p : PulseSegment) :
    (capWrite c s j p).decSt = s.decSt := by
  rw [capWrite_state]

/-- While a decode runs, a capture write adds the value it writes to what a read of its entry may give, and nothing to
what a read of another may (20_memory.md R80). -/
theorem raceCandidates_capWrite {c : Config} {s : State} (hbusy : s.decSt ≠ .idle) (j : BitVec 16) (p : PulseSegment)
    (i : Nat) :
    raceCandidates (capWrite c s j p) i =
      if i = j.toNat ∧ j.toNat < c.capDepth then raceCandidates s i ++ [some p] else raceCandidates s i := by
  by_cases hj : j.toNat < c.capDepth
  case neg => rw [capWrite_of_ge (Nat.le_of_not_lt hj), if_neg fun h => hj h.2]
  have hold : oldValues (capWrite c s j p) i =
      oldValues s i ++ if i = j.toNat then [capGet s.cap i] else [] := by
    have hrecord : decBusy s = true := decide_eq_true hbusy
    rw [oldValues, capWrite_overwritten_of_lt hj, if_pos hrecord, List.filter_append, List.map_append]
    by_cases hi : i = j.toNat
    · subst hi; simp [oldValues]
    · simp [oldValues, hi, Ne.symm hi]
  rw [raceCandidates, hold, capGet_capWrite_of_lt hj]
  by_cases hi : i = j.toNat
  · rw [if_pos hi, if_pos hi, if_pos ⟨hi, hj⟩, raceCandidates]
  · rw [if_neg hi, if_neg hi, if_neg fun h => hi h.1, List.append_nil, raceCandidates]

/-- Capture writes made one after another. -/
def capWrites (c : Config) (s : State) (writes : List (BitVec 16 × PulseSegment)) : State :=
  writes.foldl (fun u e => capWrite c u e.1 e.2) s

/-- What a read of entry i may give after capture writes: what it could give before, or a value written to entry i. -/
theorem mem_raceCandidates_capWrites {c : Config} {writes : List (BitVec 16 × PulseSegment)} {s : State} {i : Nat}
    {q : Option PulseSegment} (hbusy : s.decSt ≠ .idle) (hq : q ∈ raceCandidates (capWrites c s writes) i) :
    q ∈ raceCandidates s i ∨ ∃ e ∈ writes, e.1.toNat = i ∧ some e.2 = q := by
  induction writes generalizing s with
  | nil => exact .inl hq
  | cons e writes ih =>
    rcases ih (by rwa [capWrite_decSt]) hq with hmem | ⟨d, hd, hdi, hdq⟩
    · rw [raceCandidates_capWrite hbusy] at hmem
      split at hmem
      · next hi =>
        rcases List.mem_append.mp hmem with hmem | hmem
        · exact .inl hmem
        · exact .inr ⟨e, List.mem_cons_self, hi.1.symm, (List.mem_singleton.mp hmem).symm⟩
      · exact .inl hmem
    · exact .inr ⟨d, List.mem_cons_of_mem e hd, hdi, hdq⟩

/-- Capture writes to other entries change nothing of what a read of entry i may give. -/
theorem raceCandidates_capWrites_of_other {c : Config} {writes : List (BitVec 16 × PulseSegment)} {s : State} {i : Nat}
    (hbusy : s.decSt ≠ .idle) (hother : ∀ e ∈ writes, e.1.toNat ≠ i) :
    raceCandidates (capWrites c s writes) i = raceCandidates s i := by
  induction writes generalizing s with
  | nil => rfl
  | cons e writes ih =>
    obtain ⟨he, hrest⟩ := List.forall_mem_cons.mp hother
    calc raceCandidates (capWrites c (capWrite c s e.1 e.2) writes) i
      _ = raceCandidates (capWrite c s e.1 e.2) i := ih (by rwa [capWrite_decSt]) hrest
      _ = raceCandidates s i := by rw [raceCandidates_capWrite hbusy, if_neg fun h => he h.1.symm]

theorem raceCandidates_of_noRace {s : State} (h : s.overwritten = []) (i : Nat) :
    raceCandidates s i = [capGet s.cap i] := by
  rw [raceCandidates, oldValues_of_overwritten_nil h, List.nil_append]

/-- A read gives one of the values R80 admits, where none of them is unspecified. -/
theorem capRead_mem_raceCandidates {c : Config} {s t : State} {i : Nat} {p : PulseSegment}
    (h : capRead c s i = some (p, t)) (hspecified : none ∉ raceCandidates s i) : some p ∈ raceCandidates s i := by
  rcases capRead_cases h with ⟨-, hget, -⟩ | ⟨-, rfl, -⟩
  · rw [raceCandidates, hget]
    exact List.mem_append_right _ List.mem_cons_self
  · exact (racePick_spec c s i).resolve_right hspecified

/-- Where R80 admits one value alone there is no race, and a read draws no free value. -/
theorem capRead_of_one_candidate {c : Config} {s : State} {i : Nat} {v : PulseSegment}
    (h : raceCandidates s i = [some v]) : capRead c s i = some (v, s) := by
  obtain ⟨hold, hget⟩ := List.append_inj' (s₂ := []) h rfl
  rw [capRead_eq_of_no_race hold, List.singleton_inj.mp hget]
  rfl

end Sys2Proof.Machine

namespace Sys2Proof

open Machine

/-- Settles O43: the values R80 admits after the writes are the held one and those written to the entry. -/
theorem raceReadGivesOldOrNewValue : Obligations.RaceReadGivesOldOrNewValue := by
  unfold Obligations.RaceReadGivesOldOrNewValue
  intro s writes i v p t hbusy hrace hget hread
  change capRead Config.hw (capWrites Config.hw s writes) i = some (p, t) at hread
  have hbefore : raceCandidates s i = [some v] := by rw [raceCandidates_of_noRace hrace, hget]
  have hadmitted : ∀ q ∈ raceCandidates (capWrites Config.hw s writes) i,
      q = some v ∨ ∃ e ∈ writes, e.1.toNat = i ∧ some e.2 = q := by
    intro q hq
    have hcases := mem_raceCandidates_capWrites hbusy hq
    rwa [hbefore, List.mem_singleton] at hcases
  refine ⟨?oldOrNew, fun hother => ?held⟩
  case oldOrNew =>
    have hspecified : none ∉ raceCandidates (capWrites Config.hw s writes) i := by
      intro hnone
      rcases hadmitted none hnone with h | ⟨e, -, -, h⟩
      · cases h
      · cases h
    rcases hadmitted (some p) (capRead_mem_raceCandidates hread hspecified) with h | ⟨e, he, hei, h⟩
    · exact .inl (Option.some.inj h)
    · exact .inr ⟨e, he, hei, Option.some.inj h⟩
  case held =>
    have hone := (raceCandidates_capWrites_of_other (c := Config.hw) hbusy hother).trans hbefore
    rw [capRead_of_one_candidate hone] at hread
    cases hread
    exact ⟨rfl, rfl⟩

end Sys2Proof
